-- ==== Sys2Proof/Word.lean ====
section
/-! DEFINITION. The byte, the selector word, the five-byte payload and the answer of a read: the plainest values of the
block (spec 00_scope.md R7, 20_memory.md R51, 30_encoding.md R77, R84). -/

namespace Sys2Proof

/-- An unsigned 8-bit value (R7). -/
abbrev Byte := BitVec 8

/-- The 13-bit selector word `{st, eos, data}` (R84). -/
abbrev Sel := BitVec 13

/-- The five payload bytes of a frame, offsets 3 to 7 in order (R77, R78). -/
structure Payload where
  b0 : Byte
  b1 : Byte
  b2 : Byte
  b3 : Byte
  b4 : Byte
  deriving DecidableEq, Repr

/-- The payload in frame order. -/
def Payload.toList (p : Payload) : List Byte := [p.b0, p.b1, p.b2, p.b3, p.b4]

/-- What one read of the channel answers: a byte, or the out-of-band signal `EOS` (R51). -/
inductive ReadAnswer where
  | byte (b : Byte)
  | eos
  deriving DecidableEq, Repr

end Sys2Proof
end

