-- ==== Sys2Proof/Config.lean ====
section
/-! DEFINITION. What an implementation fixes (the parameters of 00_scope.md R8, R9) and the free draws of the channel
(20_memory.md R51 to R54, R66), which have no body. -/

namespace Sys2Proof

/-- The implementation parameters (R8): the six control bytes and the capacity of `msg` (`none` is unbounded). -/
structure Params where
  soh : Byte
  etx : Byte
  eot : Byte
  ack : Byte
  nak : Byte
  can : Byte
  msgCapacity : Option Nat
  deriving DecidableEq, Repr

/-- The default parameters (R8, R70). -/
def Params.default : Params :=
  { soh := 0x01, etx := 0x03, eot := 0x04, ack := 0x06, nak := 0x15, can := 0x18, msgCapacity := none }

/-- The six control bytes are pairwise distinct (R9). -/
abbrev Params.distinct (p : Params) : Prop := [p.soh, p.etx, p.eot, p.ack, p.nak, p.can].Nodup

/-- The channel's `n`-th free draw, taken as the answer to an open: `none` is a channel that stays silent
(R53, R66; log 2). -/
opaque Config.freeOpen : Nat → Option Bool

/-- The channel's `n`-th free draw, taken as the answer to a read: `none` is a channel that stays silent
(R51, R66; log 2). -/
opaque Config.freeRead : Nat → Option ReadAnswer

/-- The channel's `n`-th free draw, taken as the fate of a write: `false` is a write that never completes
(R52; log 2). -/
opaque Config.freeWrite : Nat → Bool

/-- The channel's `n`-th free draw, taken as the fate of a close: `false` is a close that never completes
(R54, R66; log 2). -/
opaque Config.freeClose : Nat → Bool

end Sys2Proof
end

