-- ==== Sys2Proof/Syntax.lean ====
section
/-! DEFINITION. The states of the FSM (10_state.md R21), the operations (every row of opcode_table.json, 30_encoding.md
R85), the frame (R77) and the script tokens (R87, R88). -/

namespace Sys2Proof

/-- The state code `st` (R21, R22): twelve named codes, and the four reserved ones by their two low bits. -/
inductive StCode where
  | stOpen
  | stHandshake
  | stHunt
  | stVerdict
  | stBSeq
  | stBCmp
  | stBPay
  | stBChk
  | stResp
  | stEotAck
  | stClose
  | stDone
  | stReserved (low : BitVec 2)
  deriving DecidableEq, Repr

/-- The four body states (R21: `st[3:2] = 01`), of which `RX_EOS` names one. -/
inductive BodySt where
  | seq
  | cmp
  | pay
  | chk
  deriving DecidableEq, Repr

/-- The operations of the block: the 21 step operations, the five codec functions and the reset action (R85).
An operand is a field of the selector word, or of the function, that the row does not fix. -/
inductive Instr where
  /-- R142 -/
  | openFail
  /-- R141 -/
  | openOk
  /-- R143 -/
  | hsNak
  /-- R121 -/
  | huntEos
  /-- R122 -/
  | huntEot
  /-- R123 -/
  | huntSoh
  /-- R124 -/
  | huntNoise (b : Byte)
  /-- R144: the row ignores the flags `ck_ok` and `seq_eq`. -/
  | vdRejHdr (ckOk seqEq : Bool)
  /-- R145: the row ignores the flag `seq_eq`. -/
  | vdRejCk (seqEq : Bool)
  /-- R146 -/
  | vdAcc
  /-- R147 -/
  | vdAccWarn
  /-- R129 -/
  | rxEos (body : BodySt)
  /-- R125 -/
  | rxSeq (b : Byte)
  /-- R126 -/
  | rxCmp (b : Byte)
  /-- R127 -/
  | rxPay (b : Byte)
  /-- R128 -/
  | rxChk (b : Byte)
  /-- R148 -/
  | txResp
  /-- R149 -/
  | txEotAck
  /-- R150 -/
  | chClose
  /-- R151 -/
  | doneHalt
  /-- R152 -/
  | badState (low : BitVec 2)
  /-- R100 -/
  | cksum (p : Payload)
  /-- R101 -/
  | hdrchk (s c : Byte)
  /-- R102 -/
  | ckchk (p : Payload) (k : Byte)
  /-- R103 -/
  | accum (a b : Byte)
  /-- R104 -/
  | etxfilt (p : Payload)
  /-- R190 -/
  | reset
  deriving DecidableEq, Repr

/-- The fields of a frame (R78); offset 0 is always `SOH` and is no field. -/
structure Frame where
  seq : Byte
  cmp : Byte
  pay : Payload
  chk : Byte
  deriving DecidableEq, Repr

/-- The names of the six control bytes, as script tokens (R87). -/
inductive ControlName where
  | soh
  | etx
  | eot
  | ack
  | nak
  | can
  deriving DecidableEq, Repr

/-- A script token that stands for one byte (R87): a control name, `0xHH` or `'c'`. -/
inductive ScriptByte where
  | control (c : ControlName)
  | hex (b : Byte)
  | char (c : Char)
  deriving DecidableEq, Repr

/-- A script token (R87) or pseudo-operation (R88). -/
inductive Token where
  | one (x : ScriptByte)
  | text (cs : List Char)
  | eos
  | openFail
  | block (n : Byte) (p : List ScriptByte)
  | badHdr (n : Byte) (p : List ScriptByte)
  | badCk (n : Byte) (p : List ScriptByte)
  | trunc (k : Nat) (x : Token)
  deriving DecidableEq, Repr

end Sys2Proof
end

