-- ==== Sys2Proof/WellFormed.lean ====
section
/-! DEFINITION. Which operations, frames and scripts are well formed: the operand of `HUNT_NOISE` (30_encoding.md R82,
R85), the ASCII characters of a script and the place of `OPENFAIL` (R87), the payload length of a pseudo-operation
(R88). -/

namespace Sys2Proof

/-- An operation is well formed under the parameters `p`: `HUNT_NOISE` is the row "any other byte", after `EOT` and
`SOH` (R82, R85 row 7); every other operand takes every value. -/
def Instr.wf (p : Params) : Instr → Bool
  | .huntNoise b => b != p.eot && b != p.soh
  | .openFail | .openOk | .hsNak | .huntEos | .huntEot | .huntSoh => true
  | .vdRejHdr _ _ | .vdRejCk _ | .vdAcc | .vdAccWarn => true
  | .rxEos _ | .rxSeq _ | .rxCmp _ | .rxPay _ | .rxChk _ => true
  | .txResp | .txEotAck | .chClose | .doneHalt | .badState _ => true
  | .cksum _ | .hdrchk _ _ | .ckchk _ _ | .accum _ _ | .etxfilt _ | .reset => true

/-- A character that has an ASCII code (R87). -/
def asciiChar (c : Char) : Bool := decide (c.toNat < 128)

/-- A one-byte script token is well formed: a character has an ASCII code (R87). -/
def ScriptByte.wf : ScriptByte → Bool
  | .char c => asciiChar c
  | .control _ | .hex _ => true

/-- A token is well formed where it does not stand first: characters are ASCII (R87), the payload of a
pseudo-operation has 0 to 5 characters (R88), and `OPENFAIL` stands as the first token only (R87). -/
def Token.wf : Token → Bool
  | .one x => x.wf
  | .text cs => cs.all asciiChar
  | .eos => true
  | .openFail => false
  | .block _ p | .badHdr _ p | .badCk _ p => decide (p.length ≤ 5) && p.all ScriptByte.wf
  | .trunc _ x => x.wf

/-- A script is well formed (R87). -/
def scriptWf : List Token → Bool
  | .openFail :: ts => ts.all Token.wf
  | ts => ts.all Token.wf

end Sys2Proof
end

