-- ==== Sys2Proof/Decode.lean ====
section
/-! DEFINITION. The encodings: the state codes (10_state.md R21), the selector word and the opcode map (30_encoding.md
R84 to R86) read first row first, the encoder, and the frame on the wire (R77, R78, R80). -/

namespace Sys2Proof

/-- The 4-bit state codes (R21, R22). -/
def StCode.code : StCode → BitVec 4
  | .stOpen => 0x0
  | .stHandshake => 0x1
  | .stHunt => 0x2
  | .stVerdict => 0x3
  | .stBSeq => 0x4
  | .stBCmp => 0x5
  | .stBPay => 0x6
  | .stBChk => 0x7
  | .stResp => 0x8
  | .stEotAck => 0x9
  | .stClose => 0xA
  | .stDone => 0xB
  | .stReserved low => (0b11#2 ++ low : BitVec 4)

/-- The state a 4-bit code stands for; 0xC to 0xF are reserved (R21, R22). -/
def StCode.ofCode (c : BitVec 4) : StCode :=
  match c.toNat with
  | 0 => .stOpen
  | 1 => .stHandshake
  | 2 => .stHunt
  | 3 => .stVerdict
  | 4 => .stBSeq
  | 5 => .stBCmp
  | 6 => .stBPay
  | 7 => .stBChk
  | 8 => .stResp
  | 9 => .stEotAck
  | 10 => .stClose
  | 11 => .stDone
  | _ => .stReserved (c.extractLsb' 0 2)

/-- The state code of a body state (R21). -/
def BodySt.st : BodySt → StCode
  | .seq => .stBSeq
  | .cmp => .stBCmp
  | .pay => .stBPay
  | .chk => .stBChk

/-- The body state whose code has the low bits `st[1:0]` (R21). -/
def BodySt.ofLow (low : BitVec 2) : BodySt :=
  match low.toNat with
  | 0 => .seq
  | 1 => .cmp
  | 2 => .pay
  | _ => .chk

/-- The selector word from its three fields (R84). -/
def mkSel (st : StCode) (eos : Bool) (data : Byte) : Sel := st.code ++ BitVec.ofBool eos ++ data

/-- `sel[12:9]` (R84). -/
def selSt (sel : Sel) : StCode := StCode.ofCode (sel.extractLsb' 9 4)

/-- `sel[8]` (R84). -/
def selEos (sel : Sel) : Bool := sel.getLsbD 8

/-- `sel[7:0]` (R84). -/
def selData (sel : Sel) : Byte := sel.extractLsb' 0 8

/-- The data field of the state `OPEN`: `{0000000, ok}` (R84). -/
def openData (ok : Bool) : Byte := (0#7 ++ BitVec.ofBool ok : BitVec 8)

/-- The data field of the state `VERDICT`: `{00000, hdr_ok, ck_ok, seq_eq}` (R84). -/
def verdictData (hdrOk ckOk seqEq : Bool) : Byte :=
  (0#5 ++ BitVec.ofBool hdrOk ++ BitVec.ofBool ckOk ++ BitVec.ofBool seqEq : BitVec 8)

/-- One row of the opcode map (R85): it takes the words with `sel & mask == pattern`, and builds its operation. -/
structure Row where
  pattern : Sel
  mask : Sel
  build : Sel → Instr

/-- The opcode map, its 21 rows in their order (R85); the rows of `EOT` and `SOH` hold the parameters' bytes. -/
def opcodeRows (p : Params) : List Row :=
  [ ⟨0x0000, 0x1E01, fun _ => .openFail⟩,
    ⟨0x0001, 0x1E01, fun _ => .openOk⟩,
    ⟨0x0200, 0x1E00, fun _ => .hsNak⟩,
    ⟨0x0500, 0x1F00, fun _ => .huntEos⟩,
    ⟨0x0400 ||| p.eot.setWidth 13, 0x1FFF, fun _ => .huntEot⟩,
    ⟨0x0400 ||| p.soh.setWidth 13, 0x1FFF, fun _ => .huntSoh⟩,
    ⟨0x0400, 0x1F00, fun sel => .huntNoise (selData sel)⟩,
    ⟨0x0600, 0x1E04, fun sel => .vdRejHdr (sel.getLsbD 1) (sel.getLsbD 0)⟩,
    ⟨0x0604, 0x1E06, fun sel => .vdRejCk (sel.getLsbD 0)⟩,
    ⟨0x0607, 0x1E07, fun _ => .vdAcc⟩,
    ⟨0x0606, 0x1E07, fun _ => .vdAccWarn⟩,
    ⟨0x0900, 0x1900, fun sel => .rxEos (BodySt.ofLow (sel.extractLsb' 9 2))⟩,
    ⟨0x0800, 0x1F00, fun sel => .rxSeq (selData sel)⟩,
    ⟨0x0A00, 0x1F00, fun sel => .rxCmp (selData sel)⟩,
    ⟨0x0C00, 0x1F00, fun sel => .rxPay (selData sel)⟩,
    ⟨0x0E00, 0x1F00, fun sel => .rxChk (selData sel)⟩,
    ⟨0x1000, 0x1E00, fun _ => .txResp⟩,
    ⟨0x1200, 0x1E00, fun _ => .txEotAck⟩,
    ⟨0x1400, 0x1E00, fun _ => .chClose⟩,
    ⟨0x1600, 0x1E00, fun _ => .doneHalt⟩,
    ⟨0x1800, 0x1800, fun sel => .badState (sel.extractLsb' 9 2)⟩ ]

/-- The row takes the selector word (R84). -/
def Row.takes (r : Row) (sel : Sel) : Bool := sel &&& r.mask == r.pattern

/-- The operation of a selector word: the first row, top to bottom, that takes it (R84). -/
def decode (p : Params) (sel : Sel) : Option Instr :=
  ((opcodeRows p).find? (fun r => r.takes sel)).map (fun r => r.build sel)

/-- Why a number is read as no operation. -/
inductive DecodeError where
  /-- The number has a bit above bit 12, so it is no selector word (R84). -/
  | notASelector
  /-- No row takes the word; R86 says that this never happens. -/
  | noRow
  deriving DecidableEq, Repr

/-- Decoding any number as a selector word: a refusal by name where it is none (log 13). -/
def decodeNat (p : Params) (w : Nat) : Except DecodeError Instr :=
  if w < 2 ^ 13 then
    match decode p (BitVec.ofNat 13 w) with
    | some i => .ok i
    | none => .error .noRow
  else .error .notASelector

/-- The selector word of an operation (R84, R85), its bits fixed at 0 being 0 (R86). The codec functions and the reset
action have no selector. -/
def encode (p : Params) : Instr → Option Sel
  | .openFail => some (mkSel .stOpen false (openData false))
  | .openOk => some (mkSel .stOpen false (openData true))
  | .hsNak => some (mkSel .stHandshake false 0)
  | .huntEos => some (mkSel .stHunt true 0)
  | .huntEot => some (mkSel .stHunt false p.eot)
  | .huntSoh => some (mkSel .stHunt false p.soh)
  | .huntNoise b => some (mkSel .stHunt false b)
  | .vdRejHdr ckOk seqEq => some (mkSel .stVerdict false (verdictData false ckOk seqEq))
  | .vdRejCk seqEq => some (mkSel .stVerdict false (verdictData true false seqEq))
  | .vdAcc => some (mkSel .stVerdict false (verdictData true true true))
  | .vdAccWarn => some (mkSel .stVerdict false (verdictData true true false))
  | .rxEos body => some (mkSel body.st true 0)
  | .rxSeq b => some (mkSel .stBSeq false b)
  | .rxCmp b => some (mkSel .stBCmp false b)
  | .rxPay b => some (mkSel .stBPay false b)
  | .rxChk b => some (mkSel .stBChk false b)
  | .txResp => some (mkSel .stResp false 0)
  | .txEotAck => some (mkSel .stEotAck false 0)
  | .chClose => some (mkSel .stClose false 0)
  | .doneHalt => some (mkSel .stDone false 0)
  | .badState low => some (mkSel (.stReserved low) false 0)
  | .cksum _ => none
  | .hdrchk _ _ => none
  | .ckchk _ _ => none
  | .accum _ _ => none
  | .etxfilt _ => none
  | .reset => none

/-- The operation the decoder reads from a word of the opcode table, under the default parameters, for which the table
shows its matches (R85). The word has at least the selector's 13 bits; a bit above them is refused. -/
def decodeTableWord (_nbits w : Nat) : Option Instr :=
  match decodeNat Params.default w with
  | .ok i => some i
  | .error _ => none

/-- Why nine bytes or fewer or more are read as no frame. -/
inductive FrameError where
  /-- A frame is `SOH` and exactly eight bytes (R80). -/
  | wrongLength
  /-- Offset 0 of a frame is `SOH` (R77, R78). -/
  | noStartMarker
  deriving DecidableEq, Repr

/-- The nine bytes of a frame on the wire, in offset order (R55, R77). -/
def Frame.bytes (p : Params) (f : Frame) : List Byte :=
  [p.soh, f.seq, f.cmp, f.pay.b0, f.pay.b1, f.pay.b2, f.pay.b3, f.pay.b4, f.chk]

/-- Field extraction from the bytes of a frame (R78); any other bytes are refused by name. -/
def Frame.ofBytes (p : Params) : List Byte → Except FrameError Frame
  | [f0, f1, f2, f3, f4, f5, f6, f7, f8] =>
    if f0 = p.soh then .ok { seq := f1, cmp := f2, pay := ⟨f3, f4, f5, f6, f7⟩, chk := f8 }
    else .error .noStartMarker
  | _ => .error .wrongLength

end Sys2Proof
end

