-- ==== Sys2Proof/Machine/State.lean ====
section
/-! DEFINITION. The architectural state (10_state.md R20 to R39, 70_reset_and_hazards.md R190), the model's own fields
(the parameters, the channel's answers, the reset input, the codec's output port), the reasons a step stops, and the
state after reset. -/

namespace Sys2Proof.Machine

/-- The termination cause (R34); its 2-bit code is `Cause.code`. -/
inductive Cause where
  | none
  | eot
  | ioFault
  | openFail
  deriving DecidableEq, Repr

/-- The outcome codes (R35); the 3-bit code is `OutcomeCode.code`. -/
inductive OutcomeCode where
  | none
  | accept
  | acceptSeqWarn
  | rejHeader
  | rejChecksum
  | eot
  | ioFault
  | openFail
  deriving DecidableEq, Repr

/-- The reasons of the sticky fault mark (R37, R176). -/
inductive FaultMark where
  | msgOverflow
  | badState
  | unwrittenRead
  deriving DecidableEq, Repr

/-- The events of the history (R39): `Open(ok)`, `Rd(b)` or `Rd(EOS)`, `Wr(b)`, `Close` and `Out(o)`. -/
inductive Event where
  | opened (ok : Bool)
  | rd (a : ReadAnswer)
  | wr (b : Byte)
  | closed
  | out (o : OutcomeCode)
  deriving DecidableEq, Repr

/-- The five payload registers `pay_r[0..4]` (R26). `none` is the spec's own "unwritten" (R38; log 1). -/
structure PayRegs where
  p0 : Option Byte
  p1 : Option Byte
  p2 : Option Byte
  p3 : Option Byte
  p4 : Option Byte
  deriving DecidableEq, Repr

/-- What the channel answers once the listed answers are used up (log 2): the scripted byte source of R67, or the free
draws of R66. -/
inductive Beyond where
  | scripted
  | free
  deriving DecidableEq, Repr

/-- The environment's side of the channel port (R40, R66): its coming answers to each of the four transactions, next
first. `none` or `false` is a channel that never answers that request (R51, R52). After the listed answers come those
of `beyond`; `draws` counts the free draws taken. The model's own field, not the block's state (R44; log 2). -/
structure Channel where
  opens : List (Option Bool)
  reads : List (Option ReadAnswer)
  writes : List Bool
  closes : List Bool
  beyond : Beyond
  draws : Nat
  deriving DecidableEq, Repr

/-- The value at the output of the Block Codec (log 5). -/
inductive CodecResult where
  | byte (b : Byte)
  | flag (v : Bool)
  | bytes (bs : List Byte)
  deriving DecidableEq, Repr

/-- Why a step stops with a fault. -/
inductive Fault where
  /-- The sticky fault mark is set: the state has no further step until reset (R37, R176). Raised by `step` and by every
  operation that has a selector word. Safe. -/
  | marked (m : FaultMark)
  /-- The channel never answers the outstanding request: the block has no step and holds its state (R51, R52, R186,
  R201). Raised by `step` in `OPEN` and in the read states, and by the operations that write or close. Safe. -/
  | channelSilent
  deriving DecidableEq, Repr

/-- Why a step, an operation or a read of the status port is refused. -/
inductive Refusal where
  /-- An operation that has no meaning yet, by its name in the opcode table. Raised by `exec` alone. Safe. -/
  | notModelled (mnemonic : String)
  /-- Two of the six control bytes are equal: R9 refuses the configuration. Raised by `step` and every operation.
  Safe. -/
  | paramsNotDistinct
  /-- The operation is not the one that the state and the channel's answer select (R13, R84). Raised by every operation
  that has a selector word, when it is executed by hand in a state that does not select it; never by `step`. Safe. -/
  | notSelected
  /-- No row takes the selector word. R86: no selector word is undecodable, so this never happens. Raised by `step`.
  Safe. -/
  | undecodable
  /-- `pcnt` is 5 to 7 in `B_PAY`, which names no payload register (R26, R29); such values are never written. Raised by
  `RX_PAY`. Safe. -/
  | noPayloadRegister
  /-- A read of `msg`, `cause` or `exp_seq` before `terminated = 1` (R41, R199). Raised by `statusRead`. Safe. -/
  | resultNotReady
  /-- A read of `msg` at a position outside 0 to `len(msg) - 1` (R50). Raised by `statusRead`. Safe. -/
  | noSuchMessageByte
  deriving DecidableEq, Repr

/-- The state of the machine: the architectural record of R20 with the outcome event stream of R35, and below the line
the model's own fields. -/
structure State where
  /-- R21, R22 -/
  st : StCode
  /-- R23 -/
  expSeq : Byte
  /-- R24; `none` is the spec's "unwritten" (R38), here and below -/
  seqR : Option Byte
  /-- R25 -/
  cmpR : Option Byte
  /-- R26 -/
  payR : PayRegs
  /-- R27 -/
  chkR : Option Byte
  /-- R28 -/
  accR : Option Byte
  /-- R29 -/
  pcnt : Option (BitVec 3)
  /-- R30 -/
  respR : Option Byte
  /-- R31 -/
  incPend : Bool
  /-- R32, R64; first byte first -/
  msg : List Byte
  /-- R33 -/
  terminated : Bool
  /-- R34 -/
  cause : Cause
  /-- R35 -/
  lastOutcome : OutcomeCode
  /-- the outcome event stream, oldest first (R35, R190; log 17) -/
  outcomes : List OutcomeCode
  /-- R37 -/
  fault : Option FaultMark
  /-- R39; oldest event first -/
  history : List Event
  /-- The model's own: the implementation parameters, which no step changes (R8; log 4). -/
  params : Params
  /-- The model's own: the channel's coming answers (R44, R66; log 2). -/
  chan : Channel
  /-- The model's own: the level of the input `rst` at the coming steps, next first; not asserted after them
  (R42; log 6). -/
  rst : List Bool
  /-- The model's own: the output port of the codec functions (R105; log 5). -/
  codecOut : Option CodecResult
  deriving DecidableEq, Repr

/-- No payload register is written (R38, R190). -/
def PayRegs.unwritten : PayRegs := ⟨none, none, none, none, none⟩

/-- A channel with no answer listed: every answer is a free draw (R66; log 2). -/
def Channel.undetermined : Channel :=
  { opens := [], reads := [], writes := [], closes := [], beyond := .free, draws := 0 }

/-- The machine after reset (R190; 10_state.md section 10), under the default parameters (R8), before a channel that
answers as it likes (R66) and with `rst` no longer asserted. -/
def State.reset : State :=
  { st := .stOpen, expSeq := 0x01, seqR := none, cmpR := none, payR := PayRegs.unwritten, chkR := none, accR := none,
    pcnt := none, respR := none, incPend := false, msg := [], terminated := false, cause := .none,
    lastOutcome := .none, outcomes := [], fault := none, history := [], params := Params.default,
    chan := Channel.undetermined, rst := [], codecOut := none }

/-- The outcome of a step of this machine. -/
abbrev Out := Host.Outcome State Fault Refusal

end Sys2Proof.Machine
end

