-- ==== Sys2Proof/Machine/Channel.lean ====
section
/-! DEFINITION. The channel port (10_state.md R40, 20_memory.md R51 to R54, R66, R67): the answer each transaction gets,
and the channel after that transaction. A listed answer comes first; after the list the scripted source of R67 answers,
or a free draw does (log 2). -/

namespace Sys2Proof.Machine

/-- The channel after a transaction that no listed answer served: a free draw is used up (log 2). -/
def Channel.drawn (c : Channel) : Channel :=
  match c.beyond with
  | .scripted => c
  | .free => { c with draws := c.draws + 1 }

/-- The answer to an open (R53, R67); `none` is silence. That the scripted source answers every open after the listed
ones with true, even where its script begins with `OPENFAIL`, is the model's choice (log 18). -/
def Channel.openAnswer (c : Channel) : Option Bool :=
  match c.opens with
  | a :: _ => a
  | [] => match c.beyond with
    | .scripted => some true
    | .free => Config.freeOpen c.draws

/-- The channel after an open. -/
def Channel.afterOpen (c : Channel) : Channel :=
  match c.opens with
  | _ :: rest => { c with opens := rest }
  | [] => c.drawn

/-- The answer to a read (R51, R67); `none` is silence. -/
def Channel.readAnswer (c : Channel) : Option ReadAnswer :=
  match c.reads with
  | a :: _ => a
  | [] => match c.beyond with
    | .scripted => some .eos
    | .free => Config.freeRead c.draws

/-- The channel after a read: the symbol is consumed (R51, R58). -/
def Channel.afterRead (c : Channel) : Channel :=
  match c.reads with
  | _ :: rest => { c with reads := rest }
  | [] => c.drawn

/-- The write completes (R52, R67). -/
def Channel.acceptsWrite (c : Channel) : Bool :=
  match c.writes with
  | a :: _ => a
  | [] => match c.beyond with
    | .scripted => true
    | .free => Config.freeWrite c.draws

/-- The channel after a write. -/
def Channel.afterWrite (c : Channel) : Channel :=
  match c.writes with
  | _ :: rest => { c with writes := rest }
  | [] => c.drawn

/-- The close completes (R54, R67). -/
def Channel.acceptsClose (c : Channel) : Bool :=
  match c.closes with
  | a :: _ => a
  | [] => match c.beyond with
    | .scripted => true
    | .free => Config.freeClose c.draws

/-- The channel after a close. -/
def Channel.afterClose (c : Channel) : Channel :=
  match c.closes with
  | _ :: rest => { c with closes := rest }
  | [] => c.drawn

end Sys2Proof.Machine
end

