-- ==== Sys2Proof/Machine/Codec.lean ====
section
/-! DEFINITION. The Block Codec's pure functions and the sequence increment (40_codec.md R100 to R107). -/

namespace Sys2Proof.Machine

/-- `CKSUM` (R100): the integer sum of the five bytes, modulo 256. -/
def cksum (p : Payload) : Byte :=
  BitVec.ofNat 8 ((p.b0.toNat + p.b1.toNat + p.b2.toNat + p.b3.toNat + p.b4.toNat) % 256)

/-- `HDRCHK` (R101): `c == (255 - s) mod 256`. -/
def hdrchk (s c : Byte) : Bool := c.toNat == (255 - s.toNat) % 256

/-- `CKCHK` (R102): `CKSUM(p) == k`. -/
def ckchk (p : Payload) (k : Byte) : Bool := cksum p == k

/-- `ACCUM` (R103): `(a + b) mod 256`. -/
def accum (a b : Byte) : Byte := BitVec.ofNat 8 ((a.toNat + b.toNat) % 256)

/-- `ETXFILT` (R104): the payload bytes that are not `ETX`, in order. -/
def etxfilt (etx : Byte) (p : Payload) : List Byte := p.toList.filter (fun b => b != etx)

/-- The sequence increment (R107; log 12): `(exp_seq + 1) mod 256`. -/
def seqNext (e : Byte) : Byte := BitVec.ofNat 8 ((e.toNat + 1) % 256)

end Sys2Proof.Machine
end

