-- ==== Sys2Proof/Machine/Flags.lean ====
section
/-! DEFINITION. The three combinational flags of the state `VERDICT` (10_state.md R36). -/

namespace Sys2Proof.Machine

/-- `hdr_ok`, `ck_ok` and `seq_eq` (R36). -/
structure Flags where
  hdrOk : Bool
  ckOk : Bool
  seqEq : Bool
  deriving DecidableEq, Repr

/-- The flags from the registers' values (R36): `ck_ok` compares the accumulator with the received checksum. -/
def flagsOf (seq cmp acc chk expSeq : Byte) : Flags :=
  { hdrOk := hdrchk seq cmp, ckOk := acc == chk, seqEq := seq == expSeq }

/-- The flags of a state; `none` if a register they read is unwritten (R38). All three are computed, since all three are
bits of the selector word (R84; log 8). -/
def State.flags (s : State) : Option Flags :=
  match s.seqR, s.cmpR, s.accR, s.chkR with
  | some seq, some cmp, some acc, some chk => some (flagsOf seq cmp acc chk s.expSeq)
  | _, _, _, _ => none

/-- The data field of the selector word in `VERDICT` (R84). -/
def Flags.data (f : Flags) : Byte := verdictData f.hdrOk f.ckOk f.seqEq

end Sys2Proof.Machine
end

