-- ==== Sys2Proof/Machine/Operands.lean ====
section
/-! DEFINITION. How a state and its inputs select the operation of the next step (30_encoding.md R84), and the operand
forms: the payload registers by index and as a whole (10_state.md R26, R38). -/

namespace Sys2Proof.Machine

/-- The selector word of a state, or why there is none. -/
inductive Selector where
  /-- the word of R84 -/
  | word (sel : Sel)
  /-- the channel does not answer the open or the read (R51, R53, R66) -/
  | silent
  /-- `VERDICT` reads an unwritten register (R36, R38) -/
  | unwritten
  deriving DecidableEq, Repr

/-- The selector word of a read state: `eos`, and the byte read or 0 (R84). -/
def readSelector (st : StCode) : Option ReadAnswer → Selector
  | some (.byte b) => .word (mkSel st false b)
  | some .eos => .word (mkSel st true 0)
  | none => .silent

/-- The selector word built from the state and the step's inputs (R84). -/
def State.selector (s : State) : Selector :=
  match s.st with
  | .stOpen => match s.chan.openAnswer with
    | some ok => .word (mkSel .stOpen false (openData ok))
    | none => .silent
  | .stHunt => readSelector .stHunt s.chan.readAnswer
  | .stBSeq => readSelector .stBSeq s.chan.readAnswer
  | .stBCmp => readSelector .stBCmp s.chan.readAnswer
  | .stBPay => readSelector .stBPay s.chan.readAnswer
  | .stBChk => readSelector .stBChk s.chan.readAnswer
  | .stVerdict => match s.flags with
    | some f => .word (mkSel .stVerdict false f.data)
    | none => .unwritten
  | .stHandshake => .word (mkSel .stHandshake false 0)
  | .stResp => .word (mkSel .stResp false 0)
  | .stEotAck => .word (mkSel .stEotAck false 0)
  | .stClose => .word (mkSel .stClose false 0)
  | .stDone => .word (mkSel .stDone false 0)
  | .stReserved low => .word (mkSel (.stReserved low) false 0)

/-- The operation that the state and its inputs select (R84, R85). -/
def State.selected (s : State) : Option Instr :=
  match s.selector with
  | .word sel => decode s.params sel
  | .silent => none
  | .unwritten => none

/-- `pay_r[i] <- b` for the 3-bit index `i`; an index of 5 to 7 names no register (R26, R29; log 11). -/
def PayRegs.write (r : PayRegs) (i : BitVec 3) (b : Byte) : Option PayRegs :=
  match i.toNat with
  | 0 => some { r with p0 := some b }
  | 1 => some { r with p1 := some b }
  | 2 => some { r with p2 := some b }
  | 3 => some { r with p3 := some b }
  | 4 => some { r with p4 := some b }
  | _ => none

/-- The five payload registers in frame order. -/
def PayRegs.toList (r : PayRegs) : List (Option Byte) := [r.p0, r.p1, r.p2, r.p3, r.p4]

/-- `pay_r[0..4]` read as a whole; `none` if one of them is unwritten (R38). -/
def PayRegs.read (r : PayRegs) : Option Payload :=
  match r.p0, r.p1, r.p2, r.p3, r.p4 with
  | some b0, some b1, some b2, some b3, some b4 => some ⟨b0, b1, b2, b3, b4⟩
  | _, _, _, _, _ => none

end Sys2Proof.Machine
end

