-- ==== Sys2Proof/Machine/Ops.lean ====
section
/-! DEFINITION. The operations that the meanings share: the events and the outcome stream (00_scope.md R12, 10_state.md
R35, R39), the four channel transactions (20_memory.md R51 to R54), the append to the message (R64), the sticky fault
mark (R37), the fatal-error entry (60_exceptions.md R179) and the ways back (R180), and the guard under which an
operation executes (R9, R13, R37). -/

namespace Sys2Proof.Machine

/-- `Emit(o)` (R12, R35): the outcome stream, `last_outcome` and the history's `Out(o)`. -/
def State.emit (s : State) (o : OutcomeCode) : State :=
  { s with outcomes := s.outcomes ++ [o], lastOutcome := o, history := s.history ++ [.out o] }

/-- `raise Fault(m)` (R12, R37): the sticky mark is set if it is `none`. Nothing else of the step happens
(R64; log 7). -/
def State.raise (s : State) (m : FaultMark) : State := { s with fault := some (s.fault.getD m) }

/-- The open completes with `ok` (R53). -/
def State.openDone (s : State) (ok : Bool) : State :=
  { s with chan := s.chan.afterOpen, history := s.history ++ [.opened ok] }

/-- The read completes with the answer `a`, which is consumed (R51). -/
def State.readDone (s : State) (a : ReadAnswer) : State :=
  { s with chan := s.chan.afterRead, history := s.history ++ [.rd a] }

/-- The write of `b` completes (R52). -/
def State.writeDone (s : State) (b : Byte) : State :=
  { s with chan := s.chan.afterWrite, history := s.history ++ [.wr b] }

/-- The close completes (R54). -/
def State.closeDone (s : State) : State :=
  { s with chan := s.chan.afterClose, history := s.history ++ [.closed] }

/-- `ChanWrite(b)` and then `k`; a write that never completes leaves the block without a step (R52). -/
def chanWrite (s : State) (b : Byte) (k : State → State) : Out :=
  if s.chan.acceptsWrite then .next (k (s.writeDone b)) else .fault .channelSilent

/-- `ChanClose()` and then `k` (R54); a close that never completes leaves the block without a step (R66). -/
def chanClose (s : State) (k : State → State) : Out :=
  if s.chan.acceptsClose then .next (k s.closeDone) else .fault .channelSilent

/-- `MsgAppend(b)` (R64): `none` where the append would pass the capacity. -/
def msgAppend (cap : Option Nat) (m : List Byte) (b : Byte) : Option (List Byte) :=
  match cap with
  | none => some (m ++ [b])
  | some c => if c ≤ m.length then none else some (m ++ [b])

/-- The appends of one step, in order (R58, R64): all of them or none. -/
def msgAppendAll (cap : Option Nat) : List Byte → List Byte → Option (List Byte)
  | m, [] => some m
  | m, b :: bs => match msgAppend cap m b with
    | some m' => msgAppendAll cap m' bs
    | none => none

/-- The fatal-error entry, one for `HUNT_EOS` and `RX_EOS` (R171, R179): the answer `EOS` is consumed, `cause` written,
`O_IOFAULT` emitted and control goes to `CLOSE`; nothing else changes. -/
def State.fatal (s : State) : State :=
  { (s.readDone .eos).emit .ioFault with cause := .ioFault, st := .stClose }

/-- The way back from a recoverable error, and from an accepted frame (R180): the edge `RESP -> HUNT`. -/
def State.resumeHunt (s : State) : State := { s with incPend := false, st := .stHunt }

/-- The verdict "reject" (R144, R145). -/
def State.reject (s : State) (o : OutcomeCode) : State :=
  { s.emit o with respR := some s.params.nak, incPend := false, st := .stResp }

/-- The verdict "accept" (R146, R147), one for both: the filtered payload is appended, or the whole step is undone and
the mark `MSG_OVERFLOW` set (R64). -/
def accept (s : State) (o : OutcomeCode) : Out :=
  match s.payR.read with
  | none => .next (s.raise .unwrittenRead)
  | some p => match msgAppendAll s.params.msgCapacity s.msg (etxfilt s.params.etx p) with
    | none => .next (s.raise .msgOverflow)
    | some m => .next { s.emit o with msg := m, respR := some s.params.ack, incPend := true, st := .stResp }

/-- The reset action (R190): every state element at its reset value. The channel's coming answers, the parameters and
the reset input are the environment's, and stay (R44, R191; log 6). -/
def State.resetAll (s : State) : State :=
  { State.reset with params := s.params, chan := s.chan, rst := s.rst }

/-- A configuration with two equal control bytes is refused (R9). -/
def configured (s : State) (k : Out) : Out :=
  if s.params.distinct then k else .refused .paramsNotDistinct

/-- An operation with a selector word executes only in a state that selects it (R13, R84), and a state with the fault
mark set has no step (R37; log 10). -/
def operate (i : Instr) (s : State) (k : Out) : Out :=
  configured s (match s.fault with
    | some m => .fault (.marked m)
    | none => if s.selected = some i then k else .refused .notSelected)

end Sys2Proof.Machine
end

