-- ==== Sys2Proof/Machine/CodecOps.lean ====
section
/-! DEFINITION. The codec functions as operations (40_codec.md R100 to R105): each shows its value at the codec's output
port, the model's own (log 5), and touches no state element of 10_state.md. They have no selector word and are
evaluated in any state (R105). -/

namespace Sys2Proof.Machine

/-- A value stands at the codec's output port. -/
def State.showCodec (s : State) (r : CodecResult) : State := { s with codecOut := some r }

/-- `CKSUM` (R100). -/
def execCksum (p : Payload) (s : State) : Out := configured s (.next (s.showCodec (.byte (cksum p))))

/-- `HDRCHK` (R101). -/
def execHdrchk (q c : Byte) (s : State) : Out := configured s (.next (s.showCodec (.flag (hdrchk q c))))

/-- `CKCHK` (R102). -/
def execCkchk (p : Payload) (k : Byte) (s : State) : Out := configured s (.next (s.showCodec (.flag (ckchk p k))))

/-- `ACCUM` (R103). -/
def execAccum (a b : Byte) (s : State) : Out := configured s (.next (s.showCodec (.byte (accum a b))))

/-- `ETXFILT` (R104). -/
def execEtxfilt (p : Payload) (s : State) : Out :=
  configured s (.next (s.showCodec (.bytes (etxfilt s.params.etx p))))

end Sys2Proof.Machine
end

