-- ==== Sys2Proof/Machine/Framer.lean ====
section
/-! DEFINITION. The framer's operations (41_framer.md R121 to R129). Each is one completed read. -/

namespace Sys2Proof.Machine

/-- `HUNT_EOS` (R121). -/
def execHuntEos (s : State) : Out := operate .huntEos s (.next s.fatal)

/-- `HUNT_EOT` (R122). -/
def execHuntEot (s : State) : Out :=
  operate .huntEot s (.next { s.readDone (.byte s.params.eot) with st := .stEotAck })

/-- `HUNT_SOH` (R123). -/
def execHuntSoh (s : State) : Out :=
  operate .huntSoh s (.next { s.readDone (.byte s.params.soh) with accR := some 0, st := .stBSeq })

/-- `HUNT_NOISE` (R124): the byte is consumed; `st` stays `HUNT`. -/
def execHuntNoise (b : Byte) (s : State) : Out := operate (.huntNoise b) s (.next (s.readDone (.byte b)))

/-- `RX_SEQ` (R125). -/
def execRxSeq (b : Byte) (s : State) : Out :=
  operate (.rxSeq b) s (.next { s.readDone (.byte b) with seqR := some b, st := .stBCmp })

/-- `RX_CMP` (R126). -/
def execRxCmp (b : Byte) (s : State) : Out :=
  operate (.rxCmp b) s (.next { s.readDone (.byte b) with cmpR := some b, pcnt := some 0, st := .stBPay })

/-- What `RX_PAY` does once `pcnt` and `acc_r` are read (R127): the fifth byte leaves `pcnt` and moves to `B_CHK`. -/
def rxPayStore (b : Byte) (n : BitVec 3) (acc : Byte) (s : State) : Out :=
  match s.payR.write n b with
  | none => .refused .noPayloadRegister
  | some r =>
    let t := { s.readDone (.byte b) with payR := r, accR := some (accum acc b) }
    .next (if n = 4 then { t with st := .stBChk } else { t with pcnt := some (n + 1) })

/-- `RX_PAY` (R127); `pcnt` or `acc_r` unwritten is the fault of R38. -/
def execRxPay (b : Byte) (s : State) : Out :=
  operate (.rxPay b) s (match s.pcnt, s.accR with
    | some n, some acc => rxPayStore b n acc s
    | _, _ => .next (s.raise .unwrittenRead))

/-- `RX_CHK` (R128). -/
def execRxChk (b : Byte) (s : State) : Out :=
  operate (.rxChk b) s (.next { s.readDone (.byte b) with chkR := some b, st := .stVerdict })

/-- `RX_EOS` (R129): the partial frame stays in the registers and is never read again. -/
def execRxEos (body : BodySt) (s : State) : Out := operate (.rxEos body) s (.next s.fatal)

end Sys2Proof.Machine
end

