-- ==== Sys2Proof/Machine/Receiver.lean ====
section
/-! DEFINITION. The receiver's operations (42_receiver.md R141 to R152). -/

namespace Sys2Proof.Machine

/-- `OPEN_OK` (R141). -/
def execOpenOk (s : State) : Out := operate .openOk s (.next { s.openDone true with st := .stHandshake })

/-- `OPEN_FAIL` (R142): no handshake, no read, no close. -/
def execOpenFail (s : State) : Out :=
  operate .openFail s
    (.next { (s.openDone false).emit .openFail with cause := .openFail, terminated := true, st := .stDone })

/-- `HS_NAK` (R143). -/
def execHsNak (s : State) : Out :=
  operate .hsNak s (chanWrite s s.params.nak (fun t => { t with st := .stHunt }))

/-- `VD_REJ_HDR` (R144). -/
def execVdRejHdr (ckOk seqEq : Bool) (s : State) : Out :=
  operate (.vdRejHdr ckOk seqEq) s (.next (s.reject .rejHeader))

/-- `VD_REJ_CK` (R145). -/
def execVdRejCk (seqEq : Bool) (s : State) : Out := operate (.vdRejCk seqEq) s (.next (s.reject .rejChecksum))

/-- `VD_ACC` (R146). -/
def execVdAcc (s : State) : Out := operate .vdAcc s (accept s .accept)

/-- `VD_ACC_WARN` (R147). -/
def execVdAccWarn (s : State) : Out := operate .vdAccWarn s (accept s .acceptSeqWarn)

/-- `TX_RESP` (R148): the increment takes effect when the write completes (R196); `resp_r` unwritten is the fault of
R38. -/
def execTxResp (s : State) : Out :=
  operate .txResp s (match s.respR with
    | none => .next (s.raise .unwrittenRead)
    | some r => chanWrite s r
        (fun t => { t with expSeq := if t.incPend then seqNext t.expSeq else t.expSeq }.resumeHunt))

/-- `TX_EOT_ACK` (R149). -/
def execTxEotAck (s : State) : Out :=
  operate .txEotAck s (chanWrite s s.params.ack (fun t => { t.emit .eot with cause := .eot, st := .stClose }))

/-- `CH_CLOSE` (R150). -/
def execChClose (s : State) : Out :=
  operate .chClose s (chanClose s (fun t => { t with terminated := true, st := .stDone }))

/-- `DONE_HALT` (R151): no transaction and no change, "`st = DONE` stays `DONE` with no event" (log 9). -/
def execDoneHalt (s : State) : Out := operate .doneHalt s (.next s)

/-- `BAD_STATE` (R152). -/
def execBadState (low : BitVec 2) (s : State) : Out := operate (.badState low) s (.next (s.raise .badState))

/-- The reset action (R190), in any state. -/
def execReset (s : State) : Out := configured s (.next s.resetAll)

end Sys2Proof.Machine
end

