-- ==== Sys2Proof/Machine/Dispatch.lean ====
section
/-! DEFINITION. One arm per operation of the opcode table (30_encoding.md R85). -/

namespace Sys2Proof.Machine

def exec (i : Instr) (s : State) : Host.Outcome State Fault Refusal :=
  match i with
  | .openFail => Sys2Proof.Machine.execOpenFail s
  | .openOk => Sys2Proof.Machine.execOpenOk s
  | .hsNak => Sys2Proof.Machine.execHsNak s
  | .huntEos => Sys2Proof.Machine.execHuntEos s
  | .huntEot => Sys2Proof.Machine.execHuntEot s
  | .huntSoh => Sys2Proof.Machine.execHuntSoh s
  | .huntNoise b => Sys2Proof.Machine.execHuntNoise b s
  | .vdRejHdr ckOk seqEq => Sys2Proof.Machine.execVdRejHdr ckOk seqEq s
  | .vdRejCk seqEq => Sys2Proof.Machine.execVdRejCk seqEq s
  | .vdAcc => Sys2Proof.Machine.execVdAcc s
  | .vdAccWarn => Sys2Proof.Machine.execVdAccWarn s
  | .rxEos body => Sys2Proof.Machine.execRxEos body s
  | .rxSeq b => Sys2Proof.Machine.execRxSeq b s
  | .rxCmp b => Sys2Proof.Machine.execRxCmp b s
  | .rxPay b => Sys2Proof.Machine.execRxPay b s
  | .rxChk b => Sys2Proof.Machine.execRxChk b s
  | .txResp => Sys2Proof.Machine.execTxResp s
  | .txEotAck => Sys2Proof.Machine.execTxEotAck s
  | .chClose => Sys2Proof.Machine.execChClose s
  | .doneHalt => Sys2Proof.Machine.execDoneHalt s
  | .badState low => Sys2Proof.Machine.execBadState low s
  | .cksum p => Sys2Proof.Machine.execCksum p s
  | .hdrchk q c => Sys2Proof.Machine.execHdrchk q c s
  | .ckchk p k => Sys2Proof.Machine.execCkchk p k s
  | .accum a b => Sys2Proof.Machine.execAccum a b s
  | .etxfilt p => Sys2Proof.Machine.execEtxfilt p s
  | .reset => Sys2Proof.Machine.execReset s

end Sys2Proof.Machine
end

