-- ==== Sys2Proof/Machine/Fetch.lean ====
section
/-! DEFINITION. The inputs of the coming step: the reset level (10_state.md R42), and the placing of a selector word, which
makes a state select it (30_encoding.md R84; log 3). -/

namespace Sys2Proof.Machine

/-- `rst` is asserted at the coming step (R42). -/
def State.rstNow (s : State) : Bool := s.rst.headD false

/-- The coming step's level of `rst` is used up (log 6). -/
def State.tick (s : State) : State := { s with rst := s.rst.tail }

/-- A payload register's value, 0 where it is unwritten. -/
def PayRegs.orZero (r : PayRegs) : Payload :=
  ⟨r.p0.getD 0, r.p1.getD 0, r.p2.getD 0, r.p3.getD 0, r.p4.getD 0⟩

/-- Five written payload registers. -/
def PayRegs.written (p : Payload) : PayRegs := ⟨some p.b0, some p.b1, some p.b2, some p.b3, some p.b4⟩

/-- The registers of a received frame for which the three flags of `VERDICT` have the values given (R36). -/
def State.placeFrame (s : State) (hdrOk ckOk seqEq : Bool) : State :=
  let p := s.payR.orZero
  let seq := if seqEq then s.expSeq else seqNext s.expSeq
  let cmp := BitVec.ofNat 8 (255 - seq.toNat)
  let sum := cksum p
  { s with
    seqR := some seq
    cmpR := some (if hdrOk then cmp else cmp ^^^ 1)
    payR := PayRegs.written p
    accR := some sum
    chkR := some (if ckOk then sum else accum sum 1) }

/-- A state whose coming step is the one that the selector word names: the state code and the inputs that R84 builds
the word from, and the registers that the operation reads, where they are unwritten. -/
def State.place (s : State) (sel : Sel) : State :=
  let u := { s with st := selSt sel, fault := none, rst := [] }
  let answer := if selEos sel then ReadAnswer.eos else ReadAnswer.byte (selData sel)
  let reading := { u with chan := { u.chan with reads := some answer :: u.chan.reads } }
  let writing := { u with chan := { u.chan with writes := true :: u.chan.writes } }
  match selSt sel with
  | .stOpen => { u with chan := { u.chan with opens := some (sel.getLsbD 0) :: u.chan.opens } }
  | .stHandshake => writing
  | .stHunt => reading
  | .stVerdict => u.placeFrame (sel.getLsbD 2) (sel.getLsbD 1) (sel.getLsbD 0)
  | .stBSeq => reading
  | .stBCmp => reading
  | .stBPay => { reading with pcnt := some (s.pcnt.getD 0), accR := some (s.accR.getD 0) }
  | .stBChk => reading
  | .stResp => { writing with respR := some (s.respR.getD s.params.nak) }
  | .stEotAck => writing
  | .stClose => { u with chan := { u.chan with closes := true :: u.chan.closes } }
  | .stDone => u
  | .stReserved _ => u

end Sys2Proof.Machine
end

