-- ==== Sys2Proof/Machine/Step.lean ====
section
/-! DEFINITION. One step of the machine (00_scope.md R6, 30_encoding.md R84): the reset action where `rst` is asserted
(10_state.md R42), else the operation that the selector word names; and the placing of an operation for a test. -/

namespace Sys2Proof.Machine

/-- The step without reset (R37, R84): a marked state has none, a silent channel leaves none (R201), and an unwritten
register that `VERDICT` reads raises the mark of R38. -/
def stepSelected (s : State) : Out :=
  match s.fault with
  | some m => .fault (.marked m)
  | none => match s.selector with
    | .silent => .fault .channelSilent
    | .unwritten => .next (s.raise .unwrittenRead)
    | .word sel => match decode s.params sel with
      | some i => exec i s
      | none => .refused .undecodable

/-- One step: a configuration with two equal control bytes is refused (R9), and `rst` asserted in any state is the reset
action (R42, R190; log 16). -/
def step (s : State) : Host.Outcome State Fault Refusal :=
  configured s (if s.rstNow then exec .reset s.tick else stepSelected s.tick)

/-- The state whose very next step runs the operation of the selector word `w` (log 3). -/
def State.withFetchWord (s : State) (_nbits w : Nat) : State := s.place (BitVec.ofNat 13 w)

end Sys2Proof.Machine
end

