-- ==== Sys2Proof/Machine/Script.lean ====
section
/-! DEFINITION. Scripts (30_encoding.md R87), the pseudo-operations (R88) and the scripted byte source (20_memory.md R67):
what a test drives the block with (log 14). -/

namespace Sys2Proof.Machine

/-- The parameter byte of a control name (R87). -/
def ControlName.value (p : Params) : ControlName → Byte
  | .soh => p.soh
  | .etx => p.etx
  | .eot => p.eot
  | .ack => p.ack
  | .nak => p.nak
  | .can => p.can

/-- The ASCII code of a character (R10, R87). -/
def charCode (c : Char) : Byte := BitVec.ofNat 8 c.toNat

/-- The byte a one-byte token stands for (R87). -/
def scriptByteValue (p : Params) : ScriptByte → Byte
  | .control c => ControlName.value p c
  | .hex b => b
  | .char c => charCode c

/-- The payload of a pseudo-operation: its bytes followed by `ETX` until there are five (R88). -/
def padPayload (etx : Byte) (bs : List Byte) : Payload :=
  ⟨bs.getD 0 etx, bs.getD 1 etx, bs.getD 2 etx, bs.getD 3 etx, bs.getD 4 etx⟩

/-- The frame of `BLOCK(n, p)` (R88). -/
def blockFrame (etx n : Byte) (bs : List Byte) : Frame :=
  let q := padPayload etx bs
  { seq := n, cmp := BitVec.ofNat 8 (255 - n.toNat), pay := q, chk := cksum q }

/-- The frame of `BADHDR(n, p)` (R88). -/
def badHdrFrame (etx n : Byte) (bs : List Byte) : Frame :=
  let f := blockFrame etx n bs
  { f with cmp := f.cmp ^^^ 0x01 }

/-- The frame of `BADCK(n, p)` (R88). -/
def badCkFrame (etx n : Byte) (bs : List Byte) : Frame :=
  let f := blockFrame etx n bs
  { f with chk := accum f.chk 1 }

/-- The frame's bytes as the channel's answers. -/
def frameAnswers (p : Params) (f : Frame) : List ReadAnswer := (f.bytes p).map ReadAnswer.byte

/-- The answers to reads that a token stands for (R87, R88). `OPENFAIL` is no answer to a read. -/
def expandToken (p : Params) : Token → List ReadAnswer
  | .one x => [.byte (scriptByteValue p x)]
  | .text cs => cs.map (fun c => .byte (charCode c))
  | .eos => [.eos]
  | .openFail => []
  | .block n q => frameAnswers p (blockFrame p.etx n (q.map (scriptByteValue p)))
  | .badHdr n q => frameAnswers p (badHdrFrame p.etx n (q.map (scriptByteValue p)))
  | .badCk n q => frameAnswers p (badCkFrame p.etx n (q.map (scriptByteValue p)))
  | .trunc k x => (expandToken p x).take k

/-- The answer to the open: false where the script's first token is `OPENFAIL`, else true (R67, R87). -/
def scriptOpens : List Token → Bool
  | .openFail :: _ => false
  | _ => true

/-- The in-memory scripted byte source (R67): the script's bytes in order, then `EOS` on every later read; it accepts
every write and the close. `OPENFAIL` answers the first open alone: what a second open gets, after a reset, the spec does
not say, and the model's choice is true; nor does a reset start the script again (log 18). -/
def scriptedChannel (p : Params) (script : List Token) : Channel :=
  { opens := [some (scriptOpens script)]
    reads := (script.flatMap (expandToken p)).map some
    writes := []
    closes := []
    beyond := .scripted
    draws := 0 }

/-- A state before the scripted byte source. -/
def State.withScript (s : State) (script : List Token) : State :=
  { s with chan := scriptedChannel s.params script }

end Sys2Proof.Machine
end

