-- ==== Sys2Proof/Machine/Status.lean ====
section
/-! DEFINITION. The codes of `cause` and `last_outcome` (10_state.md R34, R35), the status port (R41, 70_reset_and_hazards.md
R199, R202) and the observation of a run (60_exceptions.md R187). -/

namespace Sys2Proof.Machine

/-- The 2-bit code of the cause (R34). -/
def Cause.code : Cause → BitVec 2
  | .none => 0
  | .eot => 1
  | .ioFault => 2
  | .openFail => 3

/-- The 3-bit code of an outcome (R35). -/
def OutcomeCode.code : OutcomeCode → BitVec 3
  | .none => 0
  | .accept => 1
  | .acceptSeqWarn => 2
  | .rejHeader => 3
  | .rejChecksum => 4
  | .eot => 5
  | .ioFault => 6
  | .openFail => 7

/-- What the host may read at the status port (R41); `msg` also byte by byte, by position (R50). -/
inductive StatusItem where
  | terminated
  | lastOutcome
  | outcomeStream
  | cause
  | expSeq
  | msg
  | msgByte (i : Nat)
  deriving DecidableEq, Repr

/-- What a read of the status port gives. -/
inductive StatusValue where
  | flag (v : Bool)
  | outcome (code : BitVec 3)
  | outcomes (codes : List (BitVec 3))
  | cause (code : BitVec 2)
  | byte (b : Byte)
  | bytes (bs : List Byte)
  deriving DecidableEq, Repr

/-- A result is read only when `terminated = 1`; earlier the read is refused, not given a value (R41, R199). -/
def whenTerminated (s : State) (v : Except Refusal StatusValue) : Except Refusal StatusValue :=
  if s.terminated then v else .error .resultNotReady

/-- The byte of `msg` at a position from 0 to `len(msg) - 1` (R50; log 15). -/
def msgByteAt (m : List Byte) (i : Nat) : Except Refusal StatusValue :=
  match m[i]? with
  | some b => .ok (.byte b)
  | none => .error .noSuchMessageByte

/-- A read of the status port by the host (R41, R199, R202); it changes no state. -/
def statusRead (s : State) : StatusItem → Except Refusal StatusValue
  | .terminated => .ok (.flag s.terminated)
  | .lastOutcome => .ok (.outcome s.lastOutcome.code)
  | .outcomeStream => .ok (.outcomes (s.outcomes.map OutcomeCode.code))
  | .cause => whenTerminated s (.ok (.cause s.cause.code))
  | .expSeq => whenTerminated s (.ok (.byte s.expSeq))
  | .msg => whenTerminated s (.ok (.bytes s.msg))
  | .msgByte i => whenTerminated s (msgByteAt s.msg i)

/-- What a run shows at its end (R187). -/
structure Observation where
  history : List Event
  msg : List Byte
  expSeq : Byte
  cause : Cause
  lastOutcome : OutcomeCode
  terminated : Bool
  deriving DecidableEq, Repr

/-- The observation of a state (R187). -/
def State.observation (s : State) : Observation :=
  { history := s.history, msg := s.msg, expSeq := s.expSeq, cause := s.cause, lastOutcome := s.lastOutcome,
    terminated := s.terminated }

end Sys2Proof.Machine
end

