-- ==== Sys2Proof/Safety.lean ====
section
/-! DEFINITION. What counts as a good state and a good run: the end of a run (60_exceptions.md R187), the invariant of the
registers (10_state.md R22, R28 to R35, R38), the shapes of a history (42_receiver.md R155), what the sequence tracker
may influence (R154), and the receiver told as a function of the bytes received (R3, R120, R140). -/

namespace Sys2Proof.Machine

/-- A state with an admitted configuration (R9) and no fault mark (R37). -/
abbrev State.Ready (s : State) : Prop := s.params.distinct ∧ s.fault = none

/-- The end of a run (R187): `st = DONE` and no fault mark. -/
abbrev State.Ended (s : State) : Prop := s.st = .stDone ∧ s.fault = none

/-- `t` is reached from `s` by steps that each give a next state. -/
inductive Reaches (s : State) : State → Prop
  | refl : Reaches s s
  | step {t u : State} : Reaches s t → Machine.step t = .next u → Reaches s u

/-- A start of the machine (R190): the reset state, under any admitted parameters (R8, R9), before any channel (R66) and
with any coming levels of `rst` (R42). -/
def State.start (p : Params) (c : Channel) (levels : List Bool) : State :=
  { State.reset with params := p, chan := c, rst := levels }

/-- The 8-bit sum of some payload bytes (R28, R103). -/
def byteSum (bs : List Byte) : Byte := BitVec.ofNat 8 ((bs.map BitVec.toNat).sum % 256)

/-- The outcome of an `Out` event (R39). -/
def Event.outcome? : Event → Option OutcomeCode
  | .out o => some o
  | _ => none

/-- What the frame registers hold in each state of the framer and the sequencer (R24 to R31, R38): what a later operation
reads is written, and the accumulator is the sum of the payload bytes stored so far (R28). -/
def State.RegistersFit (s : State) : Prop :=
  match s.st with
  | .stBSeq => s.accR = some 0
  | .stBCmp => s.seqR ≠ none ∧ s.accR = some 0
  | .stBPay => s.seqR ≠ none ∧ s.cmpR ≠ none ∧ ∃ n bs, s.pcnt = some n ∧ bs.length = n.toNat ∧
      s.payR.toList.take n.toNat = bs.map some ∧ s.accR = some (byteSum bs)
  | .stBChk => s.seqR ≠ none ∧ s.cmpR ≠ none ∧ ∃ p, s.payR.read = some p ∧ s.accR = some (cksum p)
  | .stVerdict => s.seqR ≠ none ∧ s.cmpR ≠ none ∧ s.chkR ≠ none ∧
      ∃ p, s.payR.read = some p ∧ s.accR = some (cksum p)
  | .stResp => s.respR = some (if s.incPend then s.params.ack else s.params.nak)
  | .stReserved _ => False
  | _ => True

/-- The edges of the transition graph (R140), with the loops of `HUNT` and `B_PAY` and the stay in `DONE` (R151; log
9). -/
def fsmEdges : List (StCode × StCode) :=
  [ (.stOpen, .stHandshake), (.stOpen, .stDone), (.stHandshake, .stHunt), (.stHunt, .stHunt), (.stHunt, .stBSeq),
    (.stBSeq, .stBCmp), (.stBCmp, .stBPay), (.stBPay, .stBPay), (.stBPay, .stBChk), (.stBChk, .stVerdict),
    (.stHunt, .stEotAck), (.stEotAck, .stClose), (.stHunt, .stClose), (.stBSeq, .stClose), (.stBCmp, .stClose),
    (.stBPay, .stClose), (.stBChk, .stClose), (.stVerdict, .stResp), (.stResp, .stHunt), (.stClose, .stDone),
    (.stDone, .stDone) ]

/-- Which causes each state admits (R34, R150): none before the way to the end; the end of transmission or an I/O fault
while closing; one of the three at the end. -/
def causeFits : StCode → Cause → Bool
  | .stClose, c => c == .eot || c == .ioFault
  | .stDone, c => c != .none
  | _, c => c == .none

/-- The invariant of the registers. -/
structure State.Inv (s : State) : Prop where
  /-- R9 -/
  distinct : s.params.distinct
  /-- R38 -/
  noUnwrittenRead : s.fault ≠ some .unwrittenRead
  /-- R22 -/
  noBadState : s.fault ≠ some .badState
  /-- R29 -/
  counter : ∀ n, s.pcnt = some n → n.toNat ≤ 4
  /-- R30 -/
  response : ∀ r, s.respR = some r → r = s.params.ack ∨ r = s.params.nak
  /-- R31 -/
  pending : s.incPend = true → s.st = .stResp
  /-- R32, R64 -/
  capacity : ∀ c, s.params.msgCapacity = some c → s.msg.length ≤ c
  /-- R33 -/
  terminated : s.terminated = true ↔ s.st = .stDone
  /-- R34 -/
  cause : causeFits s.st s.cause = true
  /-- R35, R39 -/
  stream : s.outcomes = s.history.filterMap Event.outcome?
  /-- R35 -/
  last : s.lastOutcome = s.outcomes.getLast?.getD .none
  /-- R21, R28, R38 -/
  registers : s.RegistersFit

/-- A noise read `N` of R155: a byte that is neither `SOH` nor `EOT`. -/
def isNoise (p : Params) : Event → Bool
  | .rd (.byte b) => b != p.soh && b != p.eot
  | _ => false

/-- The reads of a frame up to some byte of its body: `Rd(SOH)` and the bytes (R155). -/
def frameReads (p : Params) (body : List Byte) : List Event :=
  .rd (.byte p.soh) :: body.map (fun b => .rd (.byte b))

/-- The four pairs `(o, r)` of R155. -/
def verdictPairs (p : Params) : List (OutcomeCode × Byte) :=
  [(.accept, p.ack), (.acceptSeqWarn, p.ack), (.rejHeader, p.nak), (.rejChecksum, p.nak)]

/-- The histories `(N* F V)*` of R155. -/
inductive Blocks (p : Params) : List Event → Prop
  | none : Blocks p []
  | more {h noise : List Event} {body : List Byte} {o : OutcomeCode} {r : Byte} : Blocks p h →
      noise.all (isNoise p) = true → body.length = 8 → (o, r) ∈ verdictPairs p →
      Blocks p (h ++ noise ++ frameReads p body ++ [.out o, .wr r])

/-- A history inside the block loop, between frames: `Open(1) Wr(NAK) (N* F V)* N*` (R155). -/
def InLoop (p : Params) (h : List Event) : Prop :=
  ∃ blocks noise, Blocks p blocks ∧ noise.all (isNoise p) = true ∧
    h = [.opened true, .wr p.nak] ++ blocks ++ noise

/-- The histories of finished sessions (R155): an open failure, the end of transmission, or an I/O fault, in which a frame
may be cut after 0 to 7 bytes of its body. -/
inductive SessionHistory (p : Params) : List Event → Prop
  | openFailure : SessionHistory p [.opened false, .out .openFail]
  | endOfTransmission {h : List Event} : InLoop p h →
      SessionHistory p (h ++ [.rd (.byte p.eot), .wr p.ack, .out .eot, .closed])
  | ioFaultInHunt {h : List Event} : InLoop p h → SessionHistory p (h ++ [.rd .eos, .out .ioFault, .closed])
  | ioFaultInFrame {h : List Event} {body : List Byte} : InLoop p h → body.length ≤ 7 →
      SessionHistory p (h ++ frameReads p body ++ [.rd .eos, .out .ioFault, .closed])

/-- A history inside a frame of which `k` body bytes are read (R130). -/
def InFrame (p : Params) (h : List Event) (k : Nat) : Prop :=
  ∃ l body, InLoop p l ∧ body.length = k ∧ h = l ++ frameReads p body

/-- The history of a session in each state: how far along a shape of R155 it is. -/
def State.HistoryFits (s : State) : Prop :=
  match s.st with
  | .stOpen => s.history = []
  | .stHandshake => s.history = [.opened true]
  | .stHunt => InLoop s.params s.history
  | .stBSeq => InFrame s.params s.history 0
  | .stBCmp => InFrame s.params s.history 1
  | .stBPay => ∃ n, s.pcnt = some n ∧ InFrame s.params s.history (2 + n.toNat)
  | .stBChk => InFrame s.params s.history 7
  | .stVerdict => InFrame s.params s.history 8
  | .stResp => ∃ l o r, InFrame s.params l 8 ∧ (o, r) ∈ verdictPairs s.params ∧ s.respR = some r ∧
      s.history = l ++ [.out o]
  | .stEotAck => ∃ l, InLoop s.params l ∧ s.history = l ++ [.rd (.byte s.params.eot)]
  | .stClose => SessionHistory s.params (s.history ++ [.closed])
  | .stDone => SessionHistory s.params s.history
  | .stReserved _ => False

/-- An outcome with the two kinds of acceptance taken as one. -/
def OutcomeCode.blur : OutcomeCode → OutcomeCode
  | .acceptSeqWarn => .accept
  | o => o

/-- An event with the two kinds of acceptance taken as one. -/
def Event.blur : Event → Event
  | .out o => .out o.blur
  | e => e

/-- Two states that differ only in the sequence tracker, and in which of the two kinds of acceptance was emitted
(R154). -/
def SameButSequence (s t : State) : Prop :=
  t = { s with expSeq := t.expSeq, lastOutcome := t.lastOutcome, outcomes := t.outcomes, history := t.history } ∧
    s.lastOutcome.blur = t.lastOutcome.blur ∧ s.outcomes.map OutcomeCode.blur = t.outcomes.map OutcomeCode.blur ∧
    s.history.map Event.blur = t.history.map Event.blur

/-- What a session comes to: the message, the expected sequence number, the bytes written, the outcomes and the cause. -/
structure Session where
  msg : List Byte
  expSeq : Byte
  sent : List Byte
  outcomes : List OutcomeCode
  cause : Cause
  deriving DecidableEq, Repr

/-- The byte of a `Wr` event (R39). -/
def Event.written? : Event → Option Byte
  | .wr b => some b
  | _ => none

/-- The session that a state shows. -/
def State.session (s : State) : Session :=
  { msg := s.msg, expSeq := s.expSeq, sent := s.history.filterMap Event.written?, outcomes := s.outcomes,
    cause := s.cause }

/-- What one received frame does to a session (R144 to R148, R178): the header first, then the checksum, then the
sequence number, which only warns. -/
def judgeFrame (p : Params) (f : Frame) (r : Session) : Session :=
  if f.cmp.toNat ≠ 255 - f.seq.toNat then
    { r with sent := r.sent ++ [p.nak], outcomes := r.outcomes ++ [.rejHeader] }
  else if (f.pay.toList.map BitVec.toNat).sum % 256 ≠ f.chk.toNat then
    { r with sent := r.sent ++ [p.nak], outcomes := r.outcomes ++ [.rejChecksum] }
  else
    { r with
      msg := r.msg ++ f.pay.toList.filter (fun b => b != p.etx)
      sent := r.sent ++ [p.ack]
      outcomes := r.outcomes ++ [if f.seq = r.expSeq then .accept else .acceptSeqWarn]
      expSeq := r.expSeq + 1 }

/-- The receiver as a function of the bytes that the channel gives before it fails (R120, R140): hunt for `EOT` or `SOH`,
take eight more bytes, judge the frame, and hunt again; a failure of the channel is fatal. -/
def receive (p : Params) : List Byte → Session → Session
  | [], r => { r with outcomes := r.outcomes ++ [.ioFault], cause := .ioFault }
  | b :: rest, r =>
    if b = p.eot then { r with sent := r.sent ++ [p.ack], outcomes := r.outcomes ++ [.eot], cause := .eot }
    else if b = p.soh then
      match rest with
      | q :: c :: b0 :: b1 :: b2 :: b3 :: b4 :: k :: rest' =>
        receive p rest' (judgeFrame p { seq := q, cmp := c, pay := ⟨b0, b1, b2, b3, b4⟩, chk := k } r)
      | _ => { r with outcomes := r.outcomes ++ [.ioFault], cause := .ioFault }
    else receive p rest r

end Sys2Proof.Machine
end

