-- ==== Sys2Proof/Certificates/Slice0/Obligations.lean ====
section
/-! DEFINITION. The statements for the provers. Each docstring names the rules of spec/ that the statement formalises. -/

open Sys2Proof Sys2Proof.Machine

/-! ## The session's start -/

/-- R141: in `OPEN`, an open answered true selects `OPEN_OK`, which records `Open(1)`, goes to `HANDSHAKE`, and changes
nothing else. -/
def Obligations.OpenOkEntersHandshake : Prop :=
  ∀ s : State, s.Ready → s.st = .stOpen → s.chan.openAnswer = some true →
    s.selected = some .openOk ∧
    exec .openOk s = .next { s with
      chan := s.chan.afterOpen
      history := s.history ++ [.opened true]
      st := .stHandshake }

/-- R142: an open answered false selects `OPEN_FAIL`: cause, outcome and `terminated` are written and the session is
over, with no byte written or read and no close. -/
def Obligations.OpenFailureEndsTheSession : Prop :=
  ∀ s : State, s.Ready → s.st = .stOpen → s.chan.openAnswer = some false →
    s.selected = some .openFail ∧
    exec .openFail s = .next { s with
      chan := s.chan.afterOpen
      history := s.history ++ [.opened false, .out .openFail]
      outcomes := s.outcomes ++ [.openFail]
      lastOutcome := .openFail
      cause := .openFail
      terminated := true
      st := .stDone }

/-- R143: in `HANDSHAKE` the block writes `NAK`, whatever the sender has sent, and goes to `HUNT`. -/
def Obligations.HandshakeWritesNak : Prop :=
  ∀ s : State, s.Ready → s.st = .stHandshake → s.chan.acceptsWrite = true →
    s.selected = some .hsNak ∧
    exec .hsNak s = .next { s with
      chan := s.chan.afterWrite
      history := s.history ++ [.wr s.params.nak]
      st := .stHunt }

/-! ## The framer -/

/-- R121, R129, R171, R179: `EOS` in `HUNT` or in a body state writes the cause, emits `O_IOFAULT` and goes to `CLOSE`;
the message, the sequence number and every frame register stay, and no control byte is written. -/
def Obligations.EndOfStreamEntersClose : Prop :=
  ∀ s : State, s.Ready → s.chan.readAnswer = some .eos →
    let t : State := { s with
      chan := s.chan.afterRead
      history := s.history ++ [.rd .eos, .out .ioFault]
      outcomes := s.outcomes ++ [.ioFault]
      lastOutcome := .ioFault
      cause := .ioFault
      st := .stClose }
    (s.st = .stHunt → s.selected = some .huntEos ∧ exec .huntEos s = .next t) ∧
    (∀ body, s.st = BodySt.st body → s.selected = some (.rxEos body) ∧ exec (.rxEos body) s = .next t)

/-- R122: `EOT` in `HUNT` goes to `EOT_ACK`. -/
def Obligations.EotInHuntGoesToEotAck : Prop :=
  ∀ s : State, s.Ready → s.st = .stHunt → s.chan.readAnswer = some (.byte s.params.eot) →
    s.selected = some .huntEot ∧
    exec .huntEot s = .next { s with
      chan := s.chan.afterRead
      history := s.history ++ [.rd (.byte s.params.eot)]
      st := .stEotAck }

/-- R123: `SOH` in `HUNT` clears the accumulator and starts a frame; the previous frame's registers stay. -/
def Obligations.SohInHuntStartsAFrame : Prop :=
  ∀ s : State, s.Ready → s.st = .stHunt → s.chan.readAnswer = some (.byte s.params.soh) →
    s.selected = some .huntSoh ∧
    exec .huntSoh s = .next { s with
      chan := s.chan.afterRead
      history := s.history ++ [.rd (.byte s.params.soh)]
      accR := some 0x00
      st := .stBSeq }

/-- R124: any other byte in `HUNT` is consumed, and nothing else changes: no outcome, no byte written. -/
def Obligations.NoiseInHuntIsDiscarded : Prop :=
  ∀ (s : State) (b : Byte), s.Ready → s.st = .stHunt → s.chan.readAnswer = some (.byte b) →
    b ≠ s.params.eot → b ≠ s.params.soh →
    s.selected = some (.huntNoise b) ∧
    exec (.huntNoise b) s = .next { s with
      chan := s.chan.afterRead
      history := s.history ++ [.rd (.byte b)] }

/-- R125, R126, R128: `RX_SEQ`, `RX_CMP` and `RX_CHK` store every byte value in the register of its frame position. -/
def Obligations.HeaderAndChecksumBytesAreStored : Prop :=
  ∀ (s : State) (b : Byte), s.Ready → s.chan.readAnswer = some (.byte b) →
    let t : State := { s with
      chan := s.chan.afterRead
      history := s.history ++ [.rd (.byte b)] }
    (s.st = .stBSeq → s.selected = some (.rxSeq b) ∧
      exec (.rxSeq b) s = .next { t with seqR := some b, st := .stBCmp }) ∧
    (s.st = .stBCmp → s.selected = some (.rxCmp b) ∧
      exec (.rxCmp b) s = .next { t with cmpR := some b, pcnt := some 0, st := .stBPay }) ∧
    (s.st = .stBChk → s.selected = some (.rxChk b) ∧
      exec (.rxChk b) s = .next { t with chkR := some b, st := .stVerdict })

/-- R127: for `pcnt` from 0 to 4, `RX_PAY` stores the byte in `pay_r[pcnt]` alone and adds it to the accumulator modulo
256; the fifth byte leaves `pcnt` and moves to `B_CHK`, every other byte counts. -/
def Obligations.PayloadByteIsStoredAndSummed : Prop :=
  ∀ (s : State) (b acc : Byte) (n : BitVec 3), s.Ready → s.st = .stBPay →
    s.chan.readAnswer = some (.byte b) → s.pcnt = some n → n.toNat ≤ 4 → s.accR = some acc →
    s.selected = some (.rxPay b) ∧
    ∃ regs sum, regs.toList = s.payR.toList.set n.toNat (some b) ∧
      sum.toNat = (acc.toNat + b.toNat) % 256 ∧
      exec (.rxPay b) s = .next { s with
        chan := s.chan.afterRead
        history := s.history ++ [.rd (.byte b)]
        payR := regs
        accR := some sum
        pcnt := some (if n = 4 then 4 else n + 1)
        st := if n = 4 then .stBChk else .stBPay }

/-- R26, R29: `pcnt` from 5 to 7 names no payload register; `RX_PAY` stops there by name (the model's choice, log 11). -/
def Obligations.PayloadCounterBeyondFourIsRefused : Prop :=
  ∀ (s : State) (b acc : Byte) (n : BitVec 3), s.Ready → s.st = .stBPay →
    s.chan.readAnswer = some (.byte b) → s.pcnt = some n → 4 < n.toNat → s.accR = some acc →
    exec (.rxPay b) s = .refused .noPayloadRegister

/-- R78, R120, R130: from `HUNT`, `SOH` and eight more bytes, whatever they are, take nine steps to `VERDICT` with each
byte in its register, the accumulator the payload's sum and the message untouched. -/
def Obligations.NineReadsAssembleAFrame : Prop :=
  ∀ (s : State) (q c b0 b1 b2 b3 b4 k : Byte) (rest : List (Option ReadAnswer)), s.Ready → s.rst = [] →
    s.st = .stHunt →
    s.chan.reads = [s.params.soh, q, c, b0, b1, b2, b3, b4, k].map (fun b => some (.byte b)) ++ rest →
    Host.Core.run Sys2Proof.core 9 s = .next { s with
      chan := { s.chan with reads := rest }
      history := s.history ++ [s.params.soh, q, c, b0, b1, b2, b3, b4, k].map (fun b => Event.rd (.byte b))
      seqR := some q
      cmpR := some c
      payR := ⟨some b0, some b1, some b2, some b3, some b4⟩
      chkR := some k
      accR := some (b0 + b1 + b2 + b3 + b4)
      pcnt := some 4
      st := .stVerdict }

/-! ## The verdict and the response -/

/-- R144: a frame whose complement is not 255 minus its sequence byte is rejected with `O_REJ_HEADER`, whatever its
checksum and its sequence number; the message and the sequence number stay. -/
def Obligations.BadHeaderIsRejectedFirst : Prop :=
  ∀ (s : State) (q c acc k : Byte), s.Ready → s.st = .stVerdict → s.seqR = some q → s.cmpR = some c →
    s.accR = some acc → s.chkR = some k → c.toNat ≠ 255 - q.toNat →
    let i := Instr.vdRejHdr (acc == k) (q == s.expSeq)
    s.selected = some i ∧
    exec i s = .next { s with
      respR := some s.params.nak
      incPend := false
      lastOutcome := .rejHeader
      outcomes := s.outcomes ++ [.rejHeader]
      history := s.history ++ [.out .rejHeader]
      st := .stResp }

/-- R145: a frame with a good header whose checksum byte differs from the accumulator is rejected with
`O_REJ_CHECKSUM`, whatever its sequence number; the message and the sequence number stay. -/
def Obligations.BadChecksumIsRejectedNext : Prop :=
  ∀ (s : State) (q c acc k : Byte), s.Ready → s.st = .stVerdict → s.seqR = some q → s.cmpR = some c →
    s.accR = some acc → s.chkR = some k → c.toNat = 255 - q.toNat → acc ≠ k →
    let i := Instr.vdRejCk (q == s.expSeq)
    s.selected = some i ∧
    exec i s = .next { s with
      respR := some s.params.nak
      incPend := false
      lastOutcome := .rejChecksum
      outcomes := s.outcomes ++ [.rejChecksum]
      history := s.history ++ [.out .rejChecksum]
      st := .stResp }

/-- R146, R147: a frame that passes both checks is accepted whatever its sequence number, which only chooses between
`VD_ACC` and `VD_ACC_WARN`: the payload bytes that are not `ETX` are appended in order, and `ACK` and the increment are
pending. -/
def Obligations.GoodFrameIsAccepted : Prop :=
  ∀ (s : State) (q c acc b0 b1 b2 b3 b4 : Byte), s.Ready → s.st = .stVerdict → s.seqR = some q →
    s.cmpR = some c → s.accR = some acc → s.chkR = some acc → c.toNat = 255 - q.toNat →
    s.payR = ⟨some b0, some b1, some b2, some b3, some b4⟩ →
    let text := [b0, b1, b2, b3, b4].filter (fun b => b != s.params.etx)
    (∀ cap, s.params.msgCapacity = some cap → s.msg.length + text.length ≤ cap) →
    let accepted (o : OutcomeCode) : State := { s with
      msg := s.msg ++ text
      respR := some s.params.ack
      incPend := true
      lastOutcome := o
      outcomes := s.outcomes ++ [o]
      history := s.history ++ [.out o]
      st := .stResp }
    (q = s.expSeq → s.selected = some .vdAcc ∧ exec .vdAcc s = .next (accepted .accept)) ∧
    (q ≠ s.expSeq → s.selected = some .vdAccWarn ∧ exec .vdAccWarn s = .next (accepted .acceptSeqWarn))

/-- R64: where the appends of an accepted frame would pass the capacity, the whole step is undone and only the mark
`MSG_OVERFLOW` is set. -/
def Obligations.OverflowUndoesTheWholeVerdict : Prop :=
  ∀ (s : State) (q c acc b0 b1 b2 b3 b4 : Byte) (cap : Nat), s.Ready → s.st = .stVerdict → s.seqR = some q →
    s.cmpR = some c → s.accR = some acc → s.chkR = some acc → c.toNat = 255 - q.toNat →
    s.payR = ⟨some b0, some b1, some b2, some b3, some b4⟩ → s.params.msgCapacity = some cap →
    s.msg.length ≤ cap → cap < s.msg.length + ([b0, b1, b2, b3, b4].filter (fun b => b != s.params.etx)).length →
    (q = s.expSeq → exec .vdAcc s = .next { s with fault := some .msgOverflow }) ∧
    (q ≠ s.expSeq → exec .vdAccWarn s = .next { s with fault := some .msgOverflow })

/-- R148: `TX_RESP` writes the pending byte; the sequence number grows by 1 modulo 256 exactly when the increment is
pending, and the block goes back to `HUNT`. -/
def Obligations.ResponseAdvancesTheSequence : Prop :=
  ∀ (s : State) (r : Byte), s.Ready → s.st = .stResp → s.respR = some r → s.chan.acceptsWrite = true →
    s.selected = some .txResp ∧
    ∃ e, e.toNat = (if s.incPend then (s.expSeq.toNat + 1) % 256 else s.expSeq.toNat) ∧
      exec .txResp s = .next { s with
        chan := s.chan.afterWrite
        history := s.history ++ [.wr r]
        expSeq := e
        incPend := false
        st := .stHunt }

/-- R149: `TX_EOT_ACK` writes one `ACK`, records the cause and the outcome, and goes to `CLOSE`. -/
def Obligations.EndOfTransmissionIsAcknowledged : Prop :=
  ∀ s : State, s.Ready → s.st = .stEotAck → s.chan.acceptsWrite = true →
    s.selected = some .txEotAck ∧
    exec .txEotAck s = .next { s with
      chan := s.chan.afterWrite
      history := s.history ++ [.wr s.params.ack, .out .eot]
      cause := .eot
      lastOutcome := .eot
      outcomes := s.outcomes ++ [.eot]
      st := .stClose }

/-- R150: `CH_CLOSE` closes the channel and terminates the session, keeping its cause. -/
def Obligations.CloseTerminatesTheSession : Prop :=
  ∀ s : State, s.Ready → s.st = .stClose → s.chan.acceptsClose = true →
    s.selected = some .chClose ∧
    exec .chClose s = .next { s with
      chan := s.chan.afterClose
      history := s.history ++ [.closed]
      terminated := true
      st := .stDone }

/-- R151: in `DONE` nothing changes and there is no event. That this is a next state equal to the state is the model's
choice (log 9). -/
def Obligations.DoneStaysDone : Prop :=
  ∀ s : State, s.Ready → s.st = .stDone → s.selected = some .doneHalt ∧ exec .doneHalt s = .next s

/-- R152: in a reserved state `BAD_STATE` raises its fault mark, and nothing else changes. -/
def Obligations.ReservedStateRaisesItsMark : Prop :=
  ∀ (s : State) (low : BitVec 2), s.Ready → s.st = .stReserved low →
    s.selected = some (.badState low) ∧ exec (.badState low) s = .next { s with fault := some .badState }

/-! ## Reset, faults and inputs -/

/-- R190: the reset action, in any state, sets every element to its reset value, and the first step after it is
`OPEN_OK` or `OPEN_FAIL`. -/
def Obligations.ResetRestoresEveryElement : Prop :=
  ∀ s : State, s.params.distinct →
    ∃ t, exec .reset s = .next t ∧
      t.st = .stOpen ∧ t.expSeq = 0x01 ∧ t.incPend = false ∧ t.msg = [] ∧ t.terminated = false ∧
      t.cause = .none ∧ t.lastOutcome = .none ∧ t.outcomes = [] ∧ t.history = [] ∧ t.fault = none ∧
      t.seqR = none ∧ t.cmpR = none ∧ t.payR.toList = [none, none, none, none, none] ∧ t.chkR = none ∧
      t.accR = none ∧ t.pcnt = none ∧ t.respR = none ∧
      ∀ i, t.selected = some i → i = .openOk ∨ i = .openFail

/-- R42, R190: with `rst` asserted the coming step is the reset action, whatever the state and even if the fault mark is
set. The parameters stay, since they are not state (R44). That the channel keeps its coming answers through the reset,
and `rst` its later levels, is the model's choice (log 6): no rule says it. -/
def Obligations.AssertedResetWinsInEveryState : Prop :=
  ∀ (s : State) (levels : List Bool), s.params.distinct → s.rst = true :: levels →
    step s = exec .reset { s with rst := levels } ∧
    step s = .next (State.start s.params s.chan levels)

/-- R37, R176: a state with the fault mark set has no step until reset; no operation with a selector word runs in it.
That such an operation, executed by hand, ends in that fault is the model's inference (log 10). -/
def Obligations.MarkedStateHasNoStep : Prop :=
  ∀ (s : State) (m : FaultMark), s.params.distinct → s.fault = some m →
    (s.rstNow = false → step s = .fault (.marked m)) ∧
    ∀ i w, encode s.params i = some w → exec i s = .fault (.marked m)

/-- R51 to R54, R66, R201: a channel that does not answer the request of the state leaves the block without a step.
That this is a fault, and its name, are the model's choice (log 2). -/
def Obligations.SilentChannelLeavesNoStep : Prop :=
  ∀ s : State, s.Ready → s.rstNow = false →
    ((s.st = .stOpen ∧ s.chan.openAnswer = none) ∨
      ((s.st = .stHunt ∨ ∃ body, s.st = BodySt.st body) ∧ s.chan.readAnswer = none) ∨
      ((s.st = .stHandshake ∨ s.st = .stEotAck ∨ (s.st = .stResp ∧ s.respR ≠ none)) ∧
        s.chan.acceptsWrite = false) ∨
      (s.st = .stClose ∧ s.chan.acceptsClose = false)) →
    step s = .fault .channelSilent

/-- R38: reading a register that no operation has written raises the mark `UNWRITTEN_READ`: in `VERDICT` the four that the
flags read, and the payload where the frame is accepted; in `B_PAY` the counter and the accumulator; in `RESP` the
response. That the rest of the step does not happen is the model's choice (log 7); that `VERDICT` reads all four even where
the header is bad, although the operands of R144 are two of them, is its inference from R84 (log 8); that a level of `rst`
is used up is its choice (log 6). -/
def Obligations.UnwrittenReadRaisesItsMark : Prop :=
  ∀ s : State, s.Ready → s.rstNow = false →
    ((s.st = .stVerdict ∧ (s.seqR = none ∨ s.cmpR = none ∨ s.accR = none ∨ s.chkR = none)) ∨
      (s.st = .stVerdict ∧ s.payR.read = none ∧
        ∃ f, s.flags = some f ∧ f.hdrOk = true ∧ f.ckOk = true) ∨
      (s.st = .stBPay ∧ (∃ b, s.chan.readAnswer = some (.byte b)) ∧ (s.pcnt = none ∨ s.accR = none)) ∨
      (s.st = .stResp ∧ s.respR = none)) →
    step s = .next { s with fault := some .unwrittenRead, rst := s.rst.tail }

/-- R9: a configuration with two equal control bytes is refused. That the refusal comes before the reset, so that the step
is refused even with `rst` asserted and the reset action itself is refused, is the model's choice (log 16). -/
def Obligations.EqualControlBytesAreRefused : Prop :=
  ∀ s : State, ¬ s.params.distinct →
    step s = .refused .paramsNotDistinct ∧ ∀ i, exec i s = .refused .paramsNotDistinct

/-- R84, R85: where the selector word of a ready state decodes to an operation, the step is that operation, after the
coming level of `rst` (not asserted) is used up (log 6). -/
def Obligations.StepRunsTheSelectedOperation : Prop :=
  ∀ (s : State) (w : Sel) (i : Instr), s.Ready → s.rstNow = false → s.selector = .word w →
    decode s.params w = some i → step s = exec i { s with rst := s.rst.tail }

/-- R13: an operation with a selector word completes only in a state that selects it. -/
def Obligations.OperationNeedsItsState : Prop :=
  ∀ (i : Instr) (w : Sel) (s t : State), encode s.params i = some w → exec i s = .next t → s.selected = some i

/-- The model's way of placing an operation for a test (log 3): the placed word's operation is the one selected. -/
def Obligations.PlacedWordIsSelected : Prop :=
  ∀ (s : State) (w : Sel), s.params.distinct →
    ∃ i, decode s.params w = some i ∧ (s.place w).selected = some i ∧ (s.place w).Ready ∧ (s.place w).rst = []

/-! ## The encodings -/

/-- R84, R85: for every well-formed operation that has a selector word, and every admitted parameters, decoding the word
gives the operation back with all its operands. -/
def Obligations.DecodeOfEncodeIsTheOperation : Prop :=
  ∀ (i : Instr) (p : Params) (w : Sel), p.distinct → i.wf p = true → encode p i = some w → decode p w = some i

/-- R86: no selector word is undecodable, and the operation read is well formed. -/
def Obligations.EverySelectorWordDecodes : Prop :=
  ∀ (p : Params) (w : Sel), ∃ i, decode p w = some i ∧ i.wf p = true

/-- R82, R83: classification of an answer in `HUNT` (`EOS`, `EOT`, `SOH`, noise, in this order) and in the body states
(`EOS`, else frame data whatever the byte). -/
def Obligations.AnswersAreClassifiedInOrder : Prop :=
  ∀ (p : Params) (b : Byte),
    decode p (mkSel .stHunt true b) = some .huntEos ∧
    decode p (mkSel .stHunt false b)
      = some (if b = p.eot then .huntEot else if b = p.soh then .huntSoh else .huntNoise b) ∧
    (∀ body, decode p (mkSel (BodySt.st body) true b) = some (.rxEos body)) ∧
    decode p (mkSel .stBSeq false b) = some (.rxSeq b) ∧
    decode p (mkSel .stBCmp false b) = some (.rxCmp b) ∧
    decode p (mkSel .stBPay false b) = some (.rxPay b) ∧
    decode p (mkSel .stBChk false b) = some (.rxChk b)

/-- R85, with words written out in 95_test_vectors.md L2.2: one word of each family under the default parameters. -/
def Obligations.TableWordsDecode : Prop :=
  decodeTableWord 16 0x0000 = some .openFail ∧ decodeTableWord 16 0x0001 = some .openOk ∧
  decodeTableWord 16 0x0200 = some .hsNak ∧ decodeTableWord 16 0x0500 = some .huntEos ∧
  decodeTableWord 16 0x0404 = some .huntEot ∧ decodeTableWord 16 0x0455 = some (.huntNoise 0x55) ∧
  decodeTableWord 16 0x0603 = some (.vdRejHdr true true) ∧ decodeTableWord 16 0x0606 = some .vdAccWarn ∧
  decodeTableWord 16 0x0B00 = some (.rxEos .cmp) ∧ decodeTableWord 16 0x0C04 = some (.rxPay 0x04) ∧
  decodeTableWord 16 0x1400 = some .chClose ∧ decodeTableWord 16 0x1E00 = some (.badState 3)

/-- R77, R78, R80: exactly the nine-byte lists that begin with `SOH` are frames, and extraction undoes assembly. -/
def Obligations.FrameOnTheWireRoundTrips : Prop :=
  ∀ (p : Params) (bs : List Byte),
    (∀ f : Frame, Frame.ofBytes p bs = .ok f ↔ bs = f.bytes p) ∧
    ((∃ f : Frame, Frame.ofBytes p bs = .ok f) ↔ bs.length = 9 ∧ bs.head? = some p.soh)

/-! ## The codec -/

/-- R100 to R105: the five codec functions have their values in every state, ready or not, and the evaluation changes
nothing but the model's own output port (log 5). -/
def Obligations.CodecFunctionsHaveTheirValues : Prop :=
  ∀ s : State, s.params.distinct →
    (∀ b0 b1 b2 b3 b4 : Byte, ∃ v : Byte,
      v.toNat = (b0.toNat + b1.toNat + b2.toNat + b3.toNat + b4.toNat) % 256 ∧
      exec (.cksum ⟨b0, b1, b2, b3, b4⟩) s = .next { s with codecOut := some (.byte v) } ∧
      ∀ k : Byte, exec (.ckchk ⟨b0, b1, b2, b3, b4⟩ k) s
        = .next { s with codecOut := some (.flag (decide (v = k))) }) ∧
    (∀ q c : Byte, exec (.hdrchk q c) s
      = .next { s with codecOut := some (.flag (decide (c.toNat = 255 - q.toNat))) }) ∧
    (∀ a b : Byte, ∃ v : Byte, v.toNat = (a.toNat + b.toNat) % 256 ∧
      exec (.accum a b) s = .next { s with codecOut := some (.byte v) }) ∧
    (∀ b0 b1 b2 b3 b4 : Byte, exec (.etxfilt ⟨b0, b1, b2, b3, b4⟩) s
      = .next { s with codecOut := some (.bytes ([b0, b1, b2, b3, b4].filter (fun b => b != s.params.etx))) })

/-- R106 (1), R100: the checksum does not depend on the order of the bytes. -/
def Obligations.ChecksumIgnoresOrder : Prop :=
  ∀ p q : Payload, p.toList.Perm q.toList → cksum p = cksum q

/-- R106 (2), R101: the header check holds exactly when `s XOR c = 0xFF`, exactly when `s + c = 255` over the integers,
and exactly one complement passes. -/
def Obligations.HeaderCheckIsTheComplement : Prop :=
  ∀ s c : Byte,
    (hdrchk s c = true ↔ s ^^^ c = 0xFF) ∧ (hdrchk s c = true ↔ s.toNat + c.toNat = 255) ∧
    ∀ d, hdrchk s c = true → (hdrchk s d = true ↔ d = c)

/-- R103, R28: clearing the accumulator and adding the payload bytes one by one gives the checksum, so the flag
`ck_ok` is `CKCHK`. -/
def Obligations.AccumulatingGivesTheChecksum : Prop :=
  ∀ (p : Payload) (seq cmp chk exp : Byte),
    p.toList.foldl accum 0x00 = cksum p ∧
    (flagsOf seq cmp (p.toList.foldl accum 0x00) chk exp).ckOk = ckchk p chk

/-- R107, R154: `k` increments from 1 give `(1 + k) mod 256`. -/
def Obligations.SequenceCountsModulo256 : Prop :=
  ∀ k : Nat, (seqNext^[k] 0x01).toNat = (1 + k) % 256

/-- R88: `BLOCK` expands to a frame that passes both checks, `BADHDR` to one that fails the header check alone, and
`BADCK` to one that fails the checksum check alone. What a text of more than five bytes expands to is the model's choice
(log 14). -/
def Obligations.PseudoOperationsAreGoodAndBadFrames : Prop :=
  ∀ (etx n : Byte) (text : List Byte),
    let good := blockFrame etx n text
    let badHeader := badHdrFrame etx n text
    let badChecksum := badCkFrame etx n text
    (hdrchk good.seq good.cmp = true ∧ ckchk good.pay good.chk = true) ∧
    (hdrchk badHeader.seq badHeader.cmp = false ∧ ckchk badHeader.pay badHeader.chk = true) ∧
    (hdrchk badChecksum.seq badChecksum.cmp = true ∧ ckchk badChecksum.pay badChecksum.chk = false) ∧
    (text.length ≤ 5 → good.pay.toList = text ++ List.replicate (5 - text.length) etx)

/-! ## The status port -/

/-- R41, R199: `msg`, `cause` and `exp_seq` are read only when `terminated = 1`, and refused earlier; `terminated`,
`last_outcome` and the outcome stream are read at any time. -/
def Obligations.ResultsAreReadOnlyAtTheEnd : Prop :=
  ∀ s : State,
    (s.terminated = false →
      statusRead s .msg = .error .resultNotReady ∧ statusRead s .cause = .error .resultNotReady ∧
      statusRead s .expSeq = .error .resultNotReady ∧ ∀ i, statusRead s (.msgByte i) = .error .resultNotReady) ∧
    (s.terminated = true →
      statusRead s .msg = .ok (.bytes s.msg) ∧ statusRead s .cause = .ok (.cause s.cause.code) ∧
      statusRead s .expSeq = .ok (.byte s.expSeq) ∧
      ∀ i b, s.msg[i]? = some b → statusRead s (.msgByte i) = .ok (.byte b)) ∧
    statusRead s .terminated = .ok (.flag s.terminated) ∧
    statusRead s .lastOutcome = .ok (.outcome s.lastOutcome.code) ∧
    statusRead s .outcomeStream = .ok (.outcomes (s.outcomes.map OutcomeCode.code))

/-! ## Rules of the whole machine -/

/-- The invariant of the registers holds after reset, for every admitted parameters, every channel and every coming
levels of `rst`. -/
def Obligations.StartMeetsTheInvariant : Prop :=
  ∀ (p : Params) (c : Channel) (levels : List Bool), p.distinct → (State.start p c levels).Inv

/-- The invariant of the registers is kept by every step, of every state that meets it. -/
def Obligations.StepKeepsTheInvariant : Prop :=
  ∀ s t : State, s.Inv → step s = .next t → t.Inv

/-- R38, R22: no state reached from a start reads a register before it is written, or is in a reserved state. -/
def Obligations.ReachedStatesReadWrittenRegisters : Prop :=
  ∀ (p : Params) (c : Channel) (levels : List Bool) (s : State), p.distinct →
    Reaches (State.start p c levels) s →
    s.fault ≠ some .unwrittenRead ∧ s.fault ≠ some .badState ∧ s.selector ≠ .unwritten ∧
      ∀ low, s.st ≠ .stReserved low

/-- R12, R32, R35, R39: a step that is not a reset only appends to the history, the outcome stream and the message, at
most two events, one outcome and five bytes, and never changes the parameters. -/
def Obligations.RecordsOnlyGrow : Prop :=
  ∀ s t : State, s.rstNow = false → step s = .next t →
    ∃ events os bytes, t.history = s.history ++ events ∧ t.outcomes = s.outcomes ++ os ∧ t.msg = s.msg ++ bytes ∧
      events.length ≤ 2 ∧ os = events.filterMap Event.outcome? ∧ os.length ≤ 1 ∧ bytes.length ≤ 5 ∧
      t.params = s.params

/-- R140: a step that is not a reset and raises no mark follows an edge of the transition graph; the stay in `DONE` is the
model's choice (log 9). -/
def Obligations.StepFollowsTheTransitionGraph : Prop :=
  ∀ s t : State, s.rstNow = false → step s = .next t → t.fault = none → (s.st, t.st) ∈ fsmEdges

/-- R23, R154: the only operation but reset that changes the sequence number is `TX_RESP` with the increment pending, and
it adds 1. -/
def Obligations.OnlyAnAcknowledgmentMovesTheSequence : Prop :=
  ∀ (i : Instr) (s t : State), exec i s = .next t → t.expSeq ≠ s.expSeq →
    i = .reset ∨ (i = .txResp ∧ s.incPend = true ∧ t.expSeq = s.expSeq + 1)

/-- R32, R33, R34: which operations write the message, the flag `terminated` and the cause. -/
def Obligations.WritersOfTheResult : Prop :=
  ∀ (i : Instr) (s t : State), exec i s = .next t →
    (t.msg ≠ s.msg → i = .vdAcc ∨ i = .vdAccWarn ∨ i = .reset) ∧
    (t.terminated ≠ s.terminated → i = .chClose ∨ i = .openFail ∨ i = .reset) ∧
    (t.cause ≠ s.cause → i = .txEotAck ∨ i = .huntEos ∨ (∃ body, i = .rxEos body) ∨ i = .openFail ∨ i = .reset)

/-- R81, R153: the block writes only `ACK` and `NAK`, and only from `HANDSHAKE`, `RESP` and `EOT_ACK`. -/
def Obligations.OnlyControlBytesAreWritten : Prop :=
  ∀ (s t : State) (events : List Event) (b : Byte), s.Inv → step s = .next t → t.history = s.history ++ events →
    .wr b ∈ events →
    (b = s.params.ack ∨ b = s.params.nak) ∧ (s.st = .stHandshake ∨ s.st = .stResp ∨ s.st = .stEotAck)

/-- R154: two states that differ only in the sequence tracker step alike: the same transactions, the same bytes written,
the same message, and outcomes that differ at most between the two kinds of acceptance. -/
def Obligations.SequenceNumberOnlyWarns : Prop :=
  ∀ s t : State, SameButSequence s t →
    (∀ s', step s = .next s' → ∃ t', step t = .next t' ∧ SameButSequence s' t') ∧
    (∀ f, step s = .fault f → step t = .fault f) ∧ (∀ r, step s = .refused r → step t = .refused r)

/-- Every step keeps the history along one of the shapes of R155, in every state whose history and registers fit. -/
def Obligations.StepKeepsTheHistoryShape : Prop :=
  ∀ s t : State, s.Inv → s.HistoryFits → step s = .next t → t.HistoryFits

/-- R155: the history of every run from reset that reaches `DONE` has one of the listed shapes. -/
def Obligations.FinishedHistoriesHaveTheListedShapes : Prop :=
  ∀ (p : Params) (c : Channel) (levels : List Bool) (s : State), p.distinct →
    Reaches (State.start p c levels) s → s.st = .stDone → SessionHistory p s.history

/-- R54, R198: at the end of every session that opened, the channel has been closed exactly once, and last; after an open
failure never. -/
def Obligations.ChannelIsClosedExactlyOnce : Prop :=
  ∀ (p : Params) (c : Channel) (levels : List Bool) (s : State), p.distinct →
    Reaches (State.start p c levels) s →
    (s.st = .stDone → s.cause ≠ .openFail → s.history.count .closed = 1 ∧ s.history.getLast? = some .closed) ∧
    (s.st = .stDone → s.cause = .openFail → s.history.count .closed = 0) ∧
    (s.st ≠ .stDone → s.history.count .closed = 0)

/-- R3, R67, R120, R140, R153, R154: from any ready state in `HUNT`, with no capacity bound, before a scripted channel
that gives any bytes and then fails, the machine runs to the end of its session, and what the session comes to is what
the receiver's function of the bytes gives. -/
def Obligations.MachineRefinesTheReceiver : Prop :=
  ∀ (s : State) (bytes : List Byte), s.Ready → s.rst = [] → s.st = .stHunt → s.params.msgCapacity = none →
    s.chan.reads = bytes.map (fun b => some (.byte b)) → s.chan.writes = [] → s.chan.closes = [] →
    s.chan.beyond = .scripted →
    ∃ n t, Host.Core.run Sys2Proof.core n s = .next t ∧ t.Ended ∧ t.terminated = true ∧
      t.session = receive s.params bytes s.session
end

