-- ==== Sys2Proof/Laws/Codec.lean ====
section
/-! SUPPORT. The codec functions as byte arithmetic, the appends of one step, and the payload registers (40_codec.md R100
to R107, 20_memory.md R64, 10_state.md R26). -/

namespace Sys2Proof.Machine

theorem cksum_eq_add (p : Payload) : cksum p = p.b0 + p.b1 + p.b2 + p.b3 + p.b4 := by
  apply BitVec.eq_of_toNat_eq
  simp only [cksum, BitVec.toNat_ofNat, BitVec.toNat_add]
  omega

theorem accum_eq_add (a b : Byte) : accum a b = a + b := by
  apply BitVec.eq_of_toNat_eq
  simp only [accum, BitVec.toNat_ofNat, BitVec.toNat_add]
  omega

theorem seqNext_eq_add (e : Byte) : seqNext e = e + 1 := by
  apply BitVec.eq_of_toNat_eq
  simp [seqNext]

theorem hdrchk_iff (s c : Byte) : hdrchk s c = true ↔ c.toNat = 255 - s.toNat := by
  have := s.isLt
  rw [hdrchk, beq_iff_eq, Nat.mod_eq_of_lt (by omega)]

/-- The appends of one step happen when the whole fits. -/
theorem msgAppendAll_of_fits {cap : Option Nat} {m bs : List Byte}
    (h : ∀ c, cap = some c → m.length + bs.length ≤ c) : msgAppendAll cap m bs = some (m ++ bs) := by
  induction bs generalizing m with
  | nil => simp [msgAppendAll]
  | cons b bs ih =>
    have hb : msgAppend cap m b = some (m ++ [b]) := by
      cases cap with
      | none => rfl
      | some c =>
        have := h c rfl
        simp only [List.length_cons] at this
        exact if_neg (by omega)
    rw [msgAppendAll, hb]
    simp only
    rw [ih (fun c hc => by have := h c hc; simp only [List.length_cons, List.length_append, List.length_nil] at *; omega)]
    simp

/-- The appends of one step are undone when one of them would pass the capacity. -/
theorem msgAppendAll_of_overflow {c : Nat} {m bs : List Byte} (hne : bs ≠ []) (h : c < m.length + bs.length) :
    msgAppendAll (some c) m bs = none := by
  induction bs generalizing m with
  | nil => exact absurd rfl hne
  | cons b bs ih =>
    by_cases hc : c ≤ m.length
    · simp [msgAppendAll, msgAppend, hc]
    · simp only [msgAppendAll, msgAppend, if_neg hc]
      refine ih ?_ ?_
      · rintro rfl
        simp only [List.length_cons, List.length_nil] at h
        omega
      · simp only [List.length_cons, List.length_append, List.length_nil] at *
        omega

/-- If the appends of one step happen, they are all of them, and the result is within the capacity if they are any. -/
theorem msgAppendAll_some {cap : Option Nat} {m bs m' : List Byte} (h : msgAppendAll cap m bs = some m') :
    m' = m ++ bs ∧ (bs = [] ∨ ∀ c, cap = some c → m'.length ≤ c) := by
  by_cases hne : bs = []
  · subst hne; simp [msgAppendAll] at h; simp [h]
  · by_cases hf : ∀ c, cap = some c → m.length + bs.length ≤ c
    · rw [msgAppendAll_of_fits hf] at h
      cases h
      exact ⟨rfl, .inr (fun c hc => by simpa using hf c hc)⟩
    · push Not at hf
      obtain ⟨c, rfl, hc⟩ := hf
      rw [msgAppendAll_of_overflow hne hc] at h
      cases h

/-- All five payload registers are written exactly when they read as a payload. -/
theorem payRegs_read {r : PayRegs} {p : Payload} (h : r.read = some p) : r.toList = p.toList.map some := by
  obtain ⟨p0, p1, p2, p3, p4⟩ := r
  cases p0 <;> cases p1 <;> cases p2 <;> cases p3 <;> cases p4 <;> simp [PayRegs.read] at h
  subst h; rfl

/-- A write to a payload register replaces that register alone. -/
theorem payRegs_write {r r' : PayRegs} {n : BitVec 3} {b : Byte} (h : r.write n b = some r') :
    n.toNat ≤ 4 ∧ r'.toList = r.toList.set n.toNat (some b) := by
  unfold PayRegs.write at h
  split at h <;> cases h <;> simp_all [PayRegs.toList]

/-- An index from 0 to 4 names a payload register. -/
theorem payRegs_write_of {r : PayRegs} {n : BitVec 3} {b : Byte} (h : n.toNat ≤ 4) : ∃ r', r.write n b = some r' := by
  have hn : ∀ n : BitVec 3, n.toNat ≤ 4 → n = 0 ∨ n = 1 ∨ n = 2 ∨ n = 3 ∨ n = 4 := by decide
  obtain rfl | rfl | rfl | rfl | rfl := hn n h <;> exact ⟨_, rfl⟩

end Sys2Proof.Machine
end

