-- ==== Sys2Proof/Laws/Decode.lean ====
section
/-! SUPPORT. The selector word's fields, and what the decoder reads from a word of each state (30_encoding.md R84 to
R86). -/

namespace Sys2Proof

/-- A selector word from its three bit fields. -/
def rawSel (c : BitVec 4) (e : BitVec 1) (d : Byte) : Sel := c ++ e ++ d

theorem mkSel_eq_rawSel (st : StCode) (eos : Bool) (d : Byte) :
    mkSel st eos d = rawSel st.code (BitVec.ofBool eos) d := rfl

@[simp] theorem rawSel_st (c : BitVec 4) (e : BitVec 1) (d : Byte) : (rawSel c e d).extractLsb' 9 4 = c := by
  change (c ++ e ++ d : BitVec (4 + 1 + 8)).extractLsb' 9 4 = c
  rw [BitVec.extractLsb'_append_eq_of_le (by omega), BitVec.extractLsb'_append_eq_of_le (by omega)]
  simp

@[simp] theorem rawSel_eos (c : BitVec 4) (e : BitVec 1) (d : Byte) : (rawSel c e d).extractLsb' 8 1 = e := by
  change (c ++ e ++ d : BitVec (4 + 1 + 8)).extractLsb' 8 1 = e
  rw [BitVec.extractLsb'_append_eq_of_le (by omega), BitVec.extractLsb'_append_eq_of_add_le (by omega)]
  simp

@[simp] theorem rawSel_data (c : BitVec 4) (e : BitVec 1) (d : Byte) : (rawSel c e d).extractLsb' 0 8 = d := by
  change (c ++ e ++ d : BitVec (4 + 1 + 8)).extractLsb' 0 8 = d
  rw [BitVec.extractLsb'_append_eq_of_add_le (by omega)]
  simp

theorem rawSel_stLow (c : BitVec 4) (e : BitVec 1) (d : Byte) :
    (rawSel c e d).extractLsb' 9 2 = c.extractLsb' 0 2 := by
  change (c ++ e ++ d : BitVec (4 + 1 + 8)).extractLsb' 9 2 = _
  rw [BitVec.extractLsb'_append_eq_of_le (by omega), BitVec.extractLsb'_append_eq_of_le (by omega)]

/-- Two words are equal exactly when their fields are. -/
theorem rawSel_inj (c c' : BitVec 4) (e e' : BitVec 1) (d d' : Byte) :
    rawSel c e d = rawSel c' e' d' ↔ c = c' ∧ e = e' ∧ d = d' := by
  refine ⟨fun h => ⟨?_, ?_, ?_⟩, by rintro ⟨rfl, rfl, rfl⟩; rfl⟩
  · simpa using congrArg (BitVec.extractLsb' 9 4) h
  · simpa using congrArg (BitVec.extractLsb' 8 1) h
  · simpa using congrArg (BitVec.extractLsb' 0 8) h

/-- Masking acts on each field. -/
theorem rawSel_and (c c' : BitVec 4) (e e' : BitVec 1) (d d' : Byte) :
    rawSel c e d &&& rawSel c' e' d' = rawSel (c &&& c') (e &&& e') (d &&& d') := by
  change (c ++ e ++ d &&& (c' ++ e' ++ d') : BitVec (4 + 1 + 8)) = _
  rw [BitVec.and_append, BitVec.and_append]; rfl

/-- Every selector word has its three fields. -/
theorem rawSel_surj (w : Sel) : ∃ c e d, w = rawSel c e d := by
  refine ⟨w.extractLsb' 9 4, w.extractLsb' 8 1, w.extractLsb' 0 8, ?_⟩
  apply BitVec.eq_of_getLsbD_eq
  intro i hi
  change _ = (w.extractLsb' 9 4 ++ w.extractLsb' 8 1 ++ w.extractLsb' 0 8 : BitVec (4 + 1 + 8)).getLsbD i
  simp only [BitVec.getLsbD_append, BitVec.getLsbD_extractLsb']
  interval_cases i <;> simp

theorem StCode.ofCode_code (st : StCode) : StCode.ofCode st.code = st := by
  cases st with
  | stReserved low => revert low; decide
  | _ => decide

theorem StCode.code_ofCode (c : BitVec 4) : (StCode.ofCode c).code = c := by
  revert c; decide

@[simp] theorem selSt_mkSel (st : StCode) (eos : Bool) (d : Byte) : selSt (mkSel st eos d) = st := by
  rw [selSt, mkSel_eq_rawSel, rawSel_st, StCode.ofCode_code]

@[simp] theorem selData_mkSel (st : StCode) (eos : Bool) (d : Byte) : selData (mkSel st eos d) = d := by
  rw [selData, mkSel_eq_rawSel, rawSel_data]

/-- A low bit of the word is a bit of the data field. -/
theorem mkSel_getLsbD (st : StCode) (eos : Bool) (d : Byte) (i : Nat) (hi : i < 8) :
    (mkSel st eos d).getLsbD i = d.getLsbD i := by
  have h := congrArg (fun b => b.getLsbD i) (selData_mkSel st eos d)
  simpa [selData, hi] using h

@[simp] theorem selEos_mkSel (st : StCode) (eos : Bool) (d : Byte) : selEos (mkSel st eos d) = eos := by
  have h := congrArg (fun b => b.getLsbD 0) (rawSel_eos st.code (BitVec.ofBool eos) d)
  simp only [BitVec.getLsbD_extractLsb', Nat.add_zero, BitVec.getLsbD_ofBool] at h
  rw [selEos, mkSel_eq_rawSel]
  simpa using h

/-- The word is the one built from its own fields. -/
theorem mkSel_fields (w : Sel) : mkSel (selSt w) (selEos w) (selData w) = w := by
  obtain ⟨c, e, d, rfl⟩ := rawSel_surj w
  have he : BitVec.ofBool (selEos (rawSel c e d)) = e := by
    have h := congrArg (fun b => b.getLsbD 0) (rawSel_eos c e d)
    rw [selEos]
    simp only [BitVec.getLsbD_extractLsb', Nat.add_zero] at h
    revert h
    generalize (rawSel c e d).getLsbD 8 = x
    revert x e; decide
  rw [mkSel_eq_rawSel, he, selSt, rawSel_st, StCode.code_ofCode, selData, rawSel_data]

/-- The opcode map with its patterns and masks cut into fields. -/
theorem opcodeRows_fields (p : Params) : opcodeRows p =
    [ ⟨rawSel 0 0 0, rawSel 15 0 1, fun _ => .openFail⟩,
      ⟨rawSel 0 0 1, rawSel 15 0 1, fun _ => .openOk⟩,
      ⟨rawSel 1 0 0, rawSel 15 0 0, fun _ => .hsNak⟩,
      ⟨rawSel 2 1 0, rawSel 15 1 0, fun _ => .huntEos⟩,
      ⟨rawSel 2 0 p.eot, rawSel 15 1 255, fun _ => .huntEot⟩,
      ⟨rawSel 2 0 p.soh, rawSel 15 1 255, fun _ => .huntSoh⟩,
      ⟨rawSel 2 0 0, rawSel 15 1 0, fun sel => .huntNoise (selData sel)⟩,
      ⟨rawSel 3 0 0, rawSel 15 0 4, fun sel => .vdRejHdr (sel.getLsbD 1) (sel.getLsbD 0)⟩,
      ⟨rawSel 3 0 4, rawSel 15 0 6, fun sel => .vdRejCk (sel.getLsbD 0)⟩,
      ⟨rawSel 3 0 7, rawSel 15 0 7, fun _ => .vdAcc⟩,
      ⟨rawSel 3 0 6, rawSel 15 0 7, fun _ => .vdAccWarn⟩,
      ⟨rawSel 4 1 0, rawSel 12 1 0, fun sel => .rxEos (BodySt.ofLow (sel.extractLsb' 9 2))⟩,
      ⟨rawSel 4 0 0, rawSel 15 1 0, fun sel => .rxSeq (selData sel)⟩,
      ⟨rawSel 5 0 0, rawSel 15 1 0, fun sel => .rxCmp (selData sel)⟩,
      ⟨rawSel 6 0 0, rawSel 15 1 0, fun sel => .rxPay (selData sel)⟩,
      ⟨rawSel 7 0 0, rawSel 15 1 0, fun sel => .rxChk (selData sel)⟩,
      ⟨rawSel 8 0 0, rawSel 15 0 0, fun _ => .txResp⟩,
      ⟨rawSel 9 0 0, rawSel 15 0 0, fun _ => .txEotAck⟩,
      ⟨rawSel 10 0 0, rawSel 15 0 0, fun _ => .chClose⟩,
      ⟨rawSel 11 0 0, rawSel 15 0 0, fun _ => .doneHalt⟩,
      ⟨rawSel 12 0 0, rawSel 12 0 0, fun sel => .badState (sel.extractLsb' 9 2)⟩ ] := by
  have byteRow : ∀ b : Byte, (0x0400 ||| b.setWidth 13 : Sel) = rawSel 2 0 b := by decide
  rw [opcodeRows, byteRow p.eot, byteRow p.soh]
  rfl

/-- A row takes a word when each field does. -/
theorem takes_fields (c mc pc : BitVec 4) (e me pe : BitVec 1) (d md pd : Byte) (f : Sel → Instr) :
    Row.takes ⟨rawSel pc pe pd, rawSel mc me md, f⟩ (rawSel c e d)
      = (decide (c &&& mc = pc) && decide (e &&& me = pe) && decide (d &&& md = pd)) := by
  rw [Row.takes, rawSel_and, beq_eq_decide, Bool.eq_iff_iff]
  simp [rawSel_inj, and_assoc]

/-- Whether a row takes the word decides between its operation and the rest of the map. -/
theorem find_row (w : Sel) (r : Row) (rs : List Row) :
    ((r :: rs).find? (fun r => r.takes w)).map (fun r => r.build w)
      = if r.takes w then some (r.build w) else (rs.find? (fun r => r.takes w)).map (fun r => r.build w) := by
  rw [List.find?_cons]
  cases r.takes w <;> rfl

theorem and_ones (d : Byte) : d &&& 255#8 = d := by
  revert d; decide

/-- `OPEN` (R85 rows 1, 2): bit 0 is the open's answer. -/
theorem decode_open (p : Params) (eos : Bool) (d : Byte) :
    decode p (mkSel .stOpen eos d) = some (if d.getLsbD 0 then .openOk else .openFail) := by
  have hd : d &&& 1#8 = if d.getLsbD 0 then 1#8 else 0#8 := by revert d; decide
  rw [decode, mkSel_eq_rawSel, opcodeRows_fields]
  cases h : d.getLsbD 0 <;> rw [h] at hd <;> simp [takes_fields, StCode.code, hd]

/-- `HUNT` (R82, R85 rows 4 to 7): `EOS` first, then `EOT`, then `SOH`, then noise. -/
theorem decode_hunt (p : Params) (eos : Bool) (d : Byte) :
    decode p (mkSel .stHunt eos d) = some (if eos then .huntEos else if d = p.eot then .huntEot
      else if d = p.soh then .huntSoh else .huntNoise d) := by
  have hs := selData_mkSel .stHunt eos d
  rw [decode]
  rw [mkSel_eq_rawSel] at hs ⊢
  rw [opcodeRows_fields]
  cases eos
  · simp only [find_row, takes_fields, hs]
    simp [StCode.code, and_ones, apply_ite some]
  · simp [takes_fields, StCode.code]

/-- `VERDICT` (R85 rows 8 to 11): bits 2, 1 and 0 are the flags, the header's first. -/
theorem decode_verdict (p : Params) (eos : Bool) (d : Byte) :
    decode p (mkSel .stVerdict eos d) = some (if d.getLsbD 2 then if d.getLsbD 1 then
        if d.getLsbD 0 then .vdAcc else .vdAccWarn else .vdRejCk (d.getLsbD 0)
      else .vdRejHdr (d.getLsbD 1) (d.getLsbD 0)) := by
  have h0 := mkSel_getLsbD .stVerdict eos d 0 (by omega)
  have h1 := mkSel_getLsbD .stVerdict eos d 1 (by omega)
  have hd : (d &&& 4#8 = 0#8 ↔ d.getLsbD 2 = false) ∧
      (d &&& 6#8 = 4#8 ↔ d.getLsbD 2 = true ∧ d.getLsbD 1 = false) ∧
      (d &&& 7#8 = 7#8 ↔ d.getLsbD 2 = true ∧ d.getLsbD 1 = true ∧ d.getLsbD 0 = true) ∧
      (d &&& 7#8 = 6#8 ↔ d.getLsbD 2 = true ∧ d.getLsbD 1 = true ∧ d.getLsbD 0 = false) := by
    clear h0 h1; revert d; decide
  rw [decode]
  rw [mkSel_eq_rawSel] at h0 h1 ⊢
  rw [opcodeRows_fields]
  simp only [find_row, takes_fields, h0, h1]
  simp only [StCode.code, BitVec.ofNat_eq_ofNat]
  simp only [hd]
  cases d.getLsbD 2 <;> cases d.getLsbD 1 <;> cases d.getLsbD 0 <;> simp

/-- The body states (R83, R85 rows 12 to 16): `EOS`, or frame data whatever the byte. -/
theorem decode_body (p : Params) (body : BodySt) (d : Byte) :
    decode p (mkSel body.st true d) = some (.rxEos body) ∧
    decode p (mkSel body.st false d) = some (match body with
      | .seq => .rxSeq d
      | .cmp => .rxCmp d
      | .pay => .rxPay d
      | .chk => .rxChk d) := by
  have hs := selData_mkSel body.st false d
  rw [decode, decode]
  rw [mkSel_eq_rawSel] at hs
  rw [mkSel_eq_rawSel, mkSel_eq_rawSel, opcodeRows_fields]
  cases body <;> simp only [find_row, takes_fields, hs] <;> simp [StCode.code, BodySt.st] <;>
    simp [rawSel_stLow, BodySt.ofLow]

/-- The states whose row looks at no input (R85 rows 3, 17 to 20). -/
theorem decode_plain (p : Params) (eos : Bool) (d : Byte) :
    decode p (mkSel .stHandshake eos d) = some .hsNak ∧
    decode p (mkSel .stResp eos d) = some .txResp ∧
    decode p (mkSel .stEotAck eos d) = some .txEotAck ∧
    decode p (mkSel .stClose eos d) = some .chClose ∧
    decode p (mkSel .stDone eos d) = some .doneHalt := by
  simp only [decode, mkSel_eq_rawSel, opcodeRows_fields, find_row, takes_fields]
  simp [StCode.code]

/-- The reserved codes (R86, R85 row 21). -/
theorem decode_reserved (p : Params) (low : BitVec 2) (eos : Bool) (d : Byte) :
    decode p (mkSel (.stReserved low) eos d) = some (.badState low) := by
  have hl : (StCode.stReserved low).code.extractLsb' 0 2 = low := by revert low; decide
  have hc : ∀ low : BitVec 2, ∀ c ∈ [0#4, 1, 2, 3, 4, 5, 6, 7, 8, 9, 10, 11],
      ((StCode.stReserved low).code &&& 15#4 = c ↔ False) := by decide
  have hr : ∀ low : BitVec 2, (StCode.stReserved low).code &&& 12#4 = 12#4 := by decide
  rw [decode]
  rw [mkSel_eq_rawSel, opcodeRows_fields]
  simp only [find_row, takes_fields, rawSel_stLow, hl]
  simp [hc, hr]

end Sys2Proof
end

