-- ==== Sys2Proof/Laws/State.lean ====
section
/-! SUPPORT. The state's named updates, one lemma for each field. -/

namespace Sys2Proof.Machine

variable (s : State)

@[simp] theorem State.emit_st (o : OutcomeCode) : (s.emit o).st = s.st := rfl
@[simp] theorem State.emit_expSeq (o : OutcomeCode) : (s.emit o).expSeq = s.expSeq := rfl
@[simp] theorem State.emit_seqR (o : OutcomeCode) : (s.emit o).seqR = s.seqR := rfl
@[simp] theorem State.emit_cmpR (o : OutcomeCode) : (s.emit o).cmpR = s.cmpR := rfl
@[simp] theorem State.emit_payR (o : OutcomeCode) : (s.emit o).payR = s.payR := rfl
@[simp] theorem State.emit_chkR (o : OutcomeCode) : (s.emit o).chkR = s.chkR := rfl
@[simp] theorem State.emit_accR (o : OutcomeCode) : (s.emit o).accR = s.accR := rfl
@[simp] theorem State.emit_pcnt (o : OutcomeCode) : (s.emit o).pcnt = s.pcnt := rfl
@[simp] theorem State.emit_respR (o : OutcomeCode) : (s.emit o).respR = s.respR := rfl
@[simp] theorem State.emit_incPend (o : OutcomeCode) : (s.emit o).incPend = s.incPend := rfl
@[simp] theorem State.emit_msg (o : OutcomeCode) : (s.emit o).msg = s.msg := rfl
@[simp] theorem State.emit_terminated (o : OutcomeCode) : (s.emit o).terminated = s.terminated := rfl
@[simp] theorem State.emit_cause (o : OutcomeCode) : (s.emit o).cause = s.cause := rfl
@[simp] theorem State.emit_lastOutcome (o : OutcomeCode) : (s.emit o).lastOutcome = o := rfl
@[simp] theorem State.emit_outcomes (o : OutcomeCode) : (s.emit o).outcomes = s.outcomes ++ [o] := rfl
@[simp] theorem State.emit_fault (o : OutcomeCode) : (s.emit o).fault = s.fault := rfl
@[simp] theorem State.emit_history (o : OutcomeCode) : (s.emit o).history = s.history ++ [.out o] := rfl
@[simp] theorem State.emit_params (o : OutcomeCode) : (s.emit o).params = s.params := rfl
@[simp] theorem State.emit_chan (o : OutcomeCode) : (s.emit o).chan = s.chan := rfl
@[simp] theorem State.emit_rst (o : OutcomeCode) : (s.emit o).rst = s.rst := rfl
@[simp] theorem State.emit_codecOut (o : OutcomeCode) : (s.emit o).codecOut = s.codecOut := rfl

@[simp] theorem State.raise_st (m : FaultMark) : (s.raise m).st = s.st := rfl
@[simp] theorem State.raise_expSeq (m : FaultMark) : (s.raise m).expSeq = s.expSeq := rfl
@[simp] theorem State.raise_seqR (m : FaultMark) : (s.raise m).seqR = s.seqR := rfl
@[simp] theorem State.raise_cmpR (m : FaultMark) : (s.raise m).cmpR = s.cmpR := rfl
@[simp] theorem State.raise_payR (m : FaultMark) : (s.raise m).payR = s.payR := rfl
@[simp] theorem State.raise_chkR (m : FaultMark) : (s.raise m).chkR = s.chkR := rfl
@[simp] theorem State.raise_accR (m : FaultMark) : (s.raise m).accR = s.accR := rfl
@[simp] theorem State.raise_pcnt (m : FaultMark) : (s.raise m).pcnt = s.pcnt := rfl
@[simp] theorem State.raise_respR (m : FaultMark) : (s.raise m).respR = s.respR := rfl
@[simp] theorem State.raise_incPend (m : FaultMark) : (s.raise m).incPend = s.incPend := rfl
@[simp] theorem State.raise_msg (m : FaultMark) : (s.raise m).msg = s.msg := rfl
@[simp] theorem State.raise_terminated (m : FaultMark) : (s.raise m).terminated = s.terminated := rfl
@[simp] theorem State.raise_cause (m : FaultMark) : (s.raise m).cause = s.cause := rfl
@[simp] theorem State.raise_lastOutcome (m : FaultMark) : (s.raise m).lastOutcome = s.lastOutcome := rfl
@[simp] theorem State.raise_outcomes (m : FaultMark) : (s.raise m).outcomes = s.outcomes := rfl
@[simp] theorem State.raise_fault (m : FaultMark) : (s.raise m).fault = some (s.fault.getD m) := rfl
@[simp] theorem State.raise_history (m : FaultMark) : (s.raise m).history = s.history := rfl
@[simp] theorem State.raise_params (m : FaultMark) : (s.raise m).params = s.params := rfl
@[simp] theorem State.raise_chan (m : FaultMark) : (s.raise m).chan = s.chan := rfl
@[simp] theorem State.raise_rst (m : FaultMark) : (s.raise m).rst = s.rst := rfl
@[simp] theorem State.raise_codecOut (m : FaultMark) : (s.raise m).codecOut = s.codecOut := rfl

@[simp] theorem State.openDone_st (ok : Bool) : (s.openDone ok).st = s.st := rfl
@[simp] theorem State.openDone_expSeq (ok : Bool) : (s.openDone ok).expSeq = s.expSeq := rfl
@[simp] theorem State.openDone_seqR (ok : Bool) : (s.openDone ok).seqR = s.seqR := rfl
@[simp] theorem State.openDone_cmpR (ok : Bool) : (s.openDone ok).cmpR = s.cmpR := rfl
@[simp] theorem State.openDone_payR (ok : Bool) : (s.openDone ok).payR = s.payR := rfl
@[simp] theorem State.openDone_chkR (ok : Bool) : (s.openDone ok).chkR = s.chkR := rfl
@[simp] theorem State.openDone_accR (ok : Bool) : (s.openDone ok).accR = s.accR := rfl
@[simp] theorem State.openDone_pcnt (ok : Bool) : (s.openDone ok).pcnt = s.pcnt := rfl
@[simp] theorem State.openDone_respR (ok : Bool) : (s.openDone ok).respR = s.respR := rfl
@[simp] theorem State.openDone_incPend (ok : Bool) : (s.openDone ok).incPend = s.incPend := rfl
@[simp] theorem State.openDone_msg (ok : Bool) : (s.openDone ok).msg = s.msg := rfl
@[simp] theorem State.openDone_terminated (ok : Bool) : (s.openDone ok).terminated = s.terminated := rfl
@[simp] theorem State.openDone_cause (ok : Bool) : (s.openDone ok).cause = s.cause := rfl
@[simp] theorem State.openDone_lastOutcome (ok : Bool) : (s.openDone ok).lastOutcome = s.lastOutcome := rfl
@[simp] theorem State.openDone_outcomes (ok : Bool) : (s.openDone ok).outcomes = s.outcomes := rfl
@[simp] theorem State.openDone_fault (ok : Bool) : (s.openDone ok).fault = s.fault := rfl
@[simp] theorem State.openDone_history (ok : Bool) : (s.openDone ok).history = s.history ++ [.opened ok] := rfl
@[simp] theorem State.openDone_params (ok : Bool) : (s.openDone ok).params = s.params := rfl
@[simp] theorem State.openDone_chan (ok : Bool) : (s.openDone ok).chan = s.chan.afterOpen := rfl
@[simp] theorem State.openDone_rst (ok : Bool) : (s.openDone ok).rst = s.rst := rfl
@[simp] theorem State.openDone_codecOut (ok : Bool) : (s.openDone ok).codecOut = s.codecOut := rfl

@[simp] theorem State.readDone_st (a : ReadAnswer) : (s.readDone a).st = s.st := rfl
@[simp] theorem State.readDone_expSeq (a : ReadAnswer) : (s.readDone a).expSeq = s.expSeq := rfl
@[simp] theorem State.readDone_seqR (a : ReadAnswer) : (s.readDone a).seqR = s.seqR := rfl
@[simp] theorem State.readDone_cmpR (a : ReadAnswer) : (s.readDone a).cmpR = s.cmpR := rfl
@[simp] theorem State.readDone_payR (a : ReadAnswer) : (s.readDone a).payR = s.payR := rfl
@[simp] theorem State.readDone_chkR (a : ReadAnswer) : (s.readDone a).chkR = s.chkR := rfl
@[simp] theorem State.readDone_accR (a : ReadAnswer) : (s.readDone a).accR = s.accR := rfl
@[simp] theorem State.readDone_pcnt (a : ReadAnswer) : (s.readDone a).pcnt = s.pcnt := rfl
@[simp] theorem State.readDone_respR (a : ReadAnswer) : (s.readDone a).respR = s.respR := rfl
@[simp] theorem State.readDone_incPend (a : ReadAnswer) : (s.readDone a).incPend = s.incPend := rfl
@[simp] theorem State.readDone_msg (a : ReadAnswer) : (s.readDone a).msg = s.msg := rfl
@[simp] theorem State.readDone_terminated (a : ReadAnswer) : (s.readDone a).terminated = s.terminated := rfl
@[simp] theorem State.readDone_cause (a : ReadAnswer) : (s.readDone a).cause = s.cause := rfl
@[simp] theorem State.readDone_lastOutcome (a : ReadAnswer) : (s.readDone a).lastOutcome = s.lastOutcome := rfl
@[simp] theorem State.readDone_outcomes (a : ReadAnswer) : (s.readDone a).outcomes = s.outcomes := rfl
@[simp] theorem State.readDone_fault (a : ReadAnswer) : (s.readDone a).fault = s.fault := rfl
@[simp] theorem State.readDone_history (a : ReadAnswer) : (s.readDone a).history = s.history ++ [.rd a] := rfl
@[simp] theorem State.readDone_params (a : ReadAnswer) : (s.readDone a).params = s.params := rfl
@[simp] theorem State.readDone_chan (a : ReadAnswer) : (s.readDone a).chan = s.chan.afterRead := rfl
@[simp] theorem State.readDone_rst (a : ReadAnswer) : (s.readDone a).rst = s.rst := rfl
@[simp] theorem State.readDone_codecOut (a : ReadAnswer) : (s.readDone a).codecOut = s.codecOut := rfl

@[simp] theorem State.writeDone_st (b : Byte) : (s.writeDone b).st = s.st := rfl
@[simp] theorem State.writeDone_expSeq (b : Byte) : (s.writeDone b).expSeq = s.expSeq := rfl
@[simp] theorem State.writeDone_seqR (b : Byte) : (s.writeDone b).seqR = s.seqR := rfl
@[simp] theorem State.writeDone_cmpR (b : Byte) : (s.writeDone b).cmpR = s.cmpR := rfl
@[simp] theorem State.writeDone_payR (b : Byte) : (s.writeDone b).payR = s.payR := rfl
@[simp] theorem State.writeDone_chkR (b : Byte) : (s.writeDone b).chkR = s.chkR := rfl
@[simp] theorem State.writeDone_accR (b : Byte) : (s.writeDone b).accR = s.accR := rfl
@[simp] theorem State.writeDone_pcnt (b : Byte) : (s.writeDone b).pcnt = s.pcnt := rfl
@[simp] theorem State.writeDone_respR (b : Byte) : (s.writeDone b).respR = s.respR := rfl
@[simp] theorem State.writeDone_incPend (b : Byte) : (s.writeDone b).incPend = s.incPend := rfl
@[simp] theorem State.writeDone_msg (b : Byte) : (s.writeDone b).msg = s.msg := rfl
@[simp] theorem State.writeDone_terminated (b : Byte) : (s.writeDone b).terminated = s.terminated := rfl
@[simp] theorem State.writeDone_cause (b : Byte) : (s.writeDone b).cause = s.cause := rfl
@[simp] theorem State.writeDone_lastOutcome (b : Byte) : (s.writeDone b).lastOutcome = s.lastOutcome := rfl
@[simp] theorem State.writeDone_outcomes (b : Byte) : (s.writeDone b).outcomes = s.outcomes := rfl
@[simp] theorem State.writeDone_fault (b : Byte) : (s.writeDone b).fault = s.fault := rfl
@[simp] theorem State.writeDone_history (b : Byte) : (s.writeDone b).history = s.history ++ [.wr b] := rfl
@[simp] theorem State.writeDone_params (b : Byte) : (s.writeDone b).params = s.params := rfl
@[simp] theorem State.writeDone_chan (b : Byte) : (s.writeDone b).chan = s.chan.afterWrite := rfl
@[simp] theorem State.writeDone_rst (b : Byte) : (s.writeDone b).rst = s.rst := rfl
@[simp] theorem State.writeDone_codecOut (b : Byte) : (s.writeDone b).codecOut = s.codecOut := rfl

@[simp] theorem State.closeDone_st : (s.closeDone).st = s.st := rfl
@[simp] theorem State.closeDone_expSeq : (s.closeDone).expSeq = s.expSeq := rfl
@[simp] theorem State.closeDone_seqR : (s.closeDone).seqR = s.seqR := rfl
@[simp] theorem State.closeDone_cmpR : (s.closeDone).cmpR = s.cmpR := rfl
@[simp] theorem State.closeDone_payR : (s.closeDone).payR = s.payR := rfl
@[simp] theorem State.closeDone_chkR : (s.closeDone).chkR = s.chkR := rfl
@[simp] theorem State.closeDone_accR : (s.closeDone).accR = s.accR := rfl
@[simp] theorem State.closeDone_pcnt : (s.closeDone).pcnt = s.pcnt := rfl
@[simp] theorem State.closeDone_respR : (s.closeDone).respR = s.respR := rfl
@[simp] theorem State.closeDone_incPend : (s.closeDone).incPend = s.incPend := rfl
@[simp] theorem State.closeDone_msg : (s.closeDone).msg = s.msg := rfl
@[simp] theorem State.closeDone_terminated : (s.closeDone).terminated = s.terminated := rfl
@[simp] theorem State.closeDone_cause : (s.closeDone).cause = s.cause := rfl
@[simp] theorem State.closeDone_lastOutcome : (s.closeDone).lastOutcome = s.lastOutcome := rfl
@[simp] theorem State.closeDone_outcomes : (s.closeDone).outcomes = s.outcomes := rfl
@[simp] theorem State.closeDone_fault : (s.closeDone).fault = s.fault := rfl
@[simp] theorem State.closeDone_history : (s.closeDone).history = s.history ++ [.closed] := rfl
@[simp] theorem State.closeDone_params : (s.closeDone).params = s.params := rfl
@[simp] theorem State.closeDone_chan : (s.closeDone).chan = s.chan.afterClose := rfl
@[simp] theorem State.closeDone_rst : (s.closeDone).rst = s.rst := rfl
@[simp] theorem State.closeDone_codecOut : (s.closeDone).codecOut = s.codecOut := rfl

@[simp] theorem State.fatal_st : (s.fatal).st = .stClose := rfl
@[simp] theorem State.fatal_expSeq : (s.fatal).expSeq = s.expSeq := rfl
@[simp] theorem State.fatal_seqR : (s.fatal).seqR = s.seqR := rfl
@[simp] theorem State.fatal_cmpR : (s.fatal).cmpR = s.cmpR := rfl
@[simp] theorem State.fatal_payR : (s.fatal).payR = s.payR := rfl
@[simp] theorem State.fatal_chkR : (s.fatal).chkR = s.chkR := rfl
@[simp] theorem State.fatal_accR : (s.fatal).accR = s.accR := rfl
@[simp] theorem State.fatal_pcnt : (s.fatal).pcnt = s.pcnt := rfl
@[simp] theorem State.fatal_respR : (s.fatal).respR = s.respR := rfl
@[simp] theorem State.fatal_incPend : (s.fatal).incPend = s.incPend := rfl
@[simp] theorem State.fatal_msg : (s.fatal).msg = s.msg := rfl
@[simp] theorem State.fatal_terminated : (s.fatal).terminated = s.terminated := rfl
@[simp] theorem State.fatal_cause : (s.fatal).cause = .ioFault := rfl
@[simp] theorem State.fatal_lastOutcome : (s.fatal).lastOutcome = .ioFault := rfl
@[simp] theorem State.fatal_outcomes : (s.fatal).outcomes = s.outcomes ++ [.ioFault] := rfl
@[simp] theorem State.fatal_fault : (s.fatal).fault = s.fault := rfl
@[simp] theorem State.fatal_history : (s.fatal).history = s.history ++ [.rd .eos] ++ [.out .ioFault] := rfl
@[simp] theorem State.fatal_params : (s.fatal).params = s.params := rfl
@[simp] theorem State.fatal_chan : (s.fatal).chan = s.chan.afterRead := rfl
@[simp] theorem State.fatal_rst : (s.fatal).rst = s.rst := rfl
@[simp] theorem State.fatal_codecOut : (s.fatal).codecOut = s.codecOut := rfl

@[simp] theorem State.resumeHunt_st : (s.resumeHunt).st = .stHunt := rfl
@[simp] theorem State.resumeHunt_expSeq : (s.resumeHunt).expSeq = s.expSeq := rfl
@[simp] theorem State.resumeHunt_seqR : (s.resumeHunt).seqR = s.seqR := rfl
@[simp] theorem State.resumeHunt_cmpR : (s.resumeHunt).cmpR = s.cmpR := rfl
@[simp] theorem State.resumeHunt_payR : (s.resumeHunt).payR = s.payR := rfl
@[simp] theorem State.resumeHunt_chkR : (s.resumeHunt).chkR = s.chkR := rfl
@[simp] theorem State.resumeHunt_accR : (s.resumeHunt).accR = s.accR := rfl
@[simp] theorem State.resumeHunt_pcnt : (s.resumeHunt).pcnt = s.pcnt := rfl
@[simp] theorem State.resumeHunt_respR : (s.resumeHunt).respR = s.respR := rfl
@[simp] theorem State.resumeHunt_incPend : (s.resumeHunt).incPend = false := rfl
@[simp] theorem State.resumeHunt_msg : (s.resumeHunt).msg = s.msg := rfl
@[simp] theorem State.resumeHunt_terminated : (s.resumeHunt).terminated = s.terminated := rfl
@[simp] theorem State.resumeHunt_cause : (s.resumeHunt).cause = s.cause := rfl
@[simp] theorem State.resumeHunt_lastOutcome : (s.resumeHunt).lastOutcome = s.lastOutcome := rfl
@[simp] theorem State.resumeHunt_outcomes : (s.resumeHunt).outcomes = s.outcomes := rfl
@[simp] theorem State.resumeHunt_fault : (s.resumeHunt).fault = s.fault := rfl
@[simp] theorem State.resumeHunt_history : (s.resumeHunt).history = s.history := rfl
@[simp] theorem State.resumeHunt_params : (s.resumeHunt).params = s.params := rfl
@[simp] theorem State.resumeHunt_chan : (s.resumeHunt).chan = s.chan := rfl
@[simp] theorem State.resumeHunt_rst : (s.resumeHunt).rst = s.rst := rfl
@[simp] theorem State.resumeHunt_codecOut : (s.resumeHunt).codecOut = s.codecOut := rfl

@[simp] theorem State.reject_st (o : OutcomeCode) : (s.reject o).st = .stResp := rfl
@[simp] theorem State.reject_expSeq (o : OutcomeCode) : (s.reject o).expSeq = s.expSeq := rfl
@[simp] theorem State.reject_seqR (o : OutcomeCode) : (s.reject o).seqR = s.seqR := rfl
@[simp] theorem State.reject_cmpR (o : OutcomeCode) : (s.reject o).cmpR = s.cmpR := rfl
@[simp] theorem State.reject_payR (o : OutcomeCode) : (s.reject o).payR = s.payR := rfl
@[simp] theorem State.reject_chkR (o : OutcomeCode) : (s.reject o).chkR = s.chkR := rfl
@[simp] theorem State.reject_accR (o : OutcomeCode) : (s.reject o).accR = s.accR := rfl
@[simp] theorem State.reject_pcnt (o : OutcomeCode) : (s.reject o).pcnt = s.pcnt := rfl
@[simp] theorem State.reject_respR (o : OutcomeCode) : (s.reject o).respR = some s.params.nak := rfl
@[simp] theorem State.reject_incPend (o : OutcomeCode) : (s.reject o).incPend = false := rfl
@[simp] theorem State.reject_msg (o : OutcomeCode) : (s.reject o).msg = s.msg := rfl
@[simp] theorem State.reject_terminated (o : OutcomeCode) : (s.reject o).terminated = s.terminated := rfl
@[simp] theorem State.reject_cause (o : OutcomeCode) : (s.reject o).cause = s.cause := rfl
@[simp] theorem State.reject_lastOutcome (o : OutcomeCode) : (s.reject o).lastOutcome = o := rfl
@[simp] theorem State.reject_outcomes (o : OutcomeCode) : (s.reject o).outcomes = s.outcomes ++ [o] := rfl
@[simp] theorem State.reject_fault (o : OutcomeCode) : (s.reject o).fault = s.fault := rfl
@[simp] theorem State.reject_history (o : OutcomeCode) : (s.reject o).history = s.history ++ [.out o] := rfl
@[simp] theorem State.reject_params (o : OutcomeCode) : (s.reject o).params = s.params := rfl
@[simp] theorem State.reject_chan (o : OutcomeCode) : (s.reject o).chan = s.chan := rfl
@[simp] theorem State.reject_rst (o : OutcomeCode) : (s.reject o).rst = s.rst := rfl
@[simp] theorem State.reject_codecOut (o : OutcomeCode) : (s.reject o).codecOut = s.codecOut := rfl

@[simp] theorem State.resetAll_st : (s.resetAll).st = .stOpen := rfl
@[simp] theorem State.resetAll_expSeq : (s.resetAll).expSeq = 1 := rfl
@[simp] theorem State.resetAll_seqR : (s.resetAll).seqR = none := rfl
@[simp] theorem State.resetAll_cmpR : (s.resetAll).cmpR = none := rfl
@[simp] theorem State.resetAll_payR : (s.resetAll).payR = PayRegs.unwritten := rfl
@[simp] theorem State.resetAll_chkR : (s.resetAll).chkR = none := rfl
@[simp] theorem State.resetAll_accR : (s.resetAll).accR = none := rfl
@[simp] theorem State.resetAll_pcnt : (s.resetAll).pcnt = none := rfl
@[simp] theorem State.resetAll_respR : (s.resetAll).respR = none := rfl
@[simp] theorem State.resetAll_incPend : (s.resetAll).incPend = false := rfl
@[simp] theorem State.resetAll_msg : (s.resetAll).msg = [] := rfl
@[simp] theorem State.resetAll_terminated : (s.resetAll).terminated = false := rfl
@[simp] theorem State.resetAll_cause : (s.resetAll).cause = .none := rfl
@[simp] theorem State.resetAll_lastOutcome : (s.resetAll).lastOutcome = .none := rfl
@[simp] theorem State.resetAll_outcomes : (s.resetAll).outcomes = [] := rfl
@[simp] theorem State.resetAll_fault : (s.resetAll).fault = none := rfl
@[simp] theorem State.resetAll_history : (s.resetAll).history = [] := rfl
@[simp] theorem State.resetAll_params : (s.resetAll).params = s.params := rfl
@[simp] theorem State.resetAll_chan : (s.resetAll).chan = s.chan := rfl
@[simp] theorem State.resetAll_rst : (s.resetAll).rst = s.rst := rfl
@[simp] theorem State.resetAll_codecOut : (s.resetAll).codecOut = none := rfl

@[simp] theorem State.tick_st : (s.tick).st = s.st := rfl
@[simp] theorem State.tick_expSeq : (s.tick).expSeq = s.expSeq := rfl
@[simp] theorem State.tick_seqR : (s.tick).seqR = s.seqR := rfl
@[simp] theorem State.tick_cmpR : (s.tick).cmpR = s.cmpR := rfl
@[simp] theorem State.tick_payR : (s.tick).payR = s.payR := rfl
@[simp] theorem State.tick_chkR : (s.tick).chkR = s.chkR := rfl
@[simp] theorem State.tick_accR : (s.tick).accR = s.accR := rfl
@[simp] theorem State.tick_pcnt : (s.tick).pcnt = s.pcnt := rfl
@[simp] theorem State.tick_respR : (s.tick).respR = s.respR := rfl
@[simp] theorem State.tick_incPend : (s.tick).incPend = s.incPend := rfl
@[simp] theorem State.tick_msg : (s.tick).msg = s.msg := rfl
@[simp] theorem State.tick_terminated : (s.tick).terminated = s.terminated := rfl
@[simp] theorem State.tick_cause : (s.tick).cause = s.cause := rfl
@[simp] theorem State.tick_lastOutcome : (s.tick).lastOutcome = s.lastOutcome := rfl
@[simp] theorem State.tick_outcomes : (s.tick).outcomes = s.outcomes := rfl
@[simp] theorem State.tick_fault : (s.tick).fault = s.fault := rfl
@[simp] theorem State.tick_history : (s.tick).history = s.history := rfl
@[simp] theorem State.tick_params : (s.tick).params = s.params := rfl
@[simp] theorem State.tick_chan : (s.tick).chan = s.chan := rfl
@[simp] theorem State.tick_rst : (s.tick).rst = s.rst.tail := rfl
@[simp] theorem State.tick_codecOut : (s.tick).codecOut = s.codecOut := rfl

@[simp] theorem State.showCodec_st (r : CodecResult) : (s.showCodec r).st = s.st := rfl
@[simp] theorem State.showCodec_expSeq (r : CodecResult) : (s.showCodec r).expSeq = s.expSeq := rfl
@[simp] theorem State.showCodec_seqR (r : CodecResult) : (s.showCodec r).seqR = s.seqR := rfl
@[simp] theorem State.showCodec_cmpR (r : CodecResult) : (s.showCodec r).cmpR = s.cmpR := rfl
@[simp] theorem State.showCodec_payR (r : CodecResult) : (s.showCodec r).payR = s.payR := rfl
@[simp] theorem State.showCodec_chkR (r : CodecResult) : (s.showCodec r).chkR = s.chkR := rfl
@[simp] theorem State.showCodec_accR (r : CodecResult) : (s.showCodec r).accR = s.accR := rfl
@[simp] theorem State.showCodec_pcnt (r : CodecResult) : (s.showCodec r).pcnt = s.pcnt := rfl
@[simp] theorem State.showCodec_respR (r : CodecResult) : (s.showCodec r).respR = s.respR := rfl
@[simp] theorem State.showCodec_incPend (r : CodecResult) : (s.showCodec r).incPend = s.incPend := rfl
@[simp] theorem State.showCodec_msg (r : CodecResult) : (s.showCodec r).msg = s.msg := rfl
@[simp] theorem State.showCodec_terminated (r : CodecResult) : (s.showCodec r).terminated = s.terminated := rfl
@[simp] theorem State.showCodec_cause (r : CodecResult) : (s.showCodec r).cause = s.cause := rfl
@[simp] theorem State.showCodec_lastOutcome (r : CodecResult) : (s.showCodec r).lastOutcome = s.lastOutcome := rfl
@[simp] theorem State.showCodec_outcomes (r : CodecResult) : (s.showCodec r).outcomes = s.outcomes := rfl
@[simp] theorem State.showCodec_fault (r : CodecResult) : (s.showCodec r).fault = s.fault := rfl
@[simp] theorem State.showCodec_history (r : CodecResult) : (s.showCodec r).history = s.history := rfl
@[simp] theorem State.showCodec_params (r : CodecResult) : (s.showCodec r).params = s.params := rfl
@[simp] theorem State.showCodec_chan (r : CodecResult) : (s.showCodec r).chan = s.chan := rfl
@[simp] theorem State.showCodec_rst (r : CodecResult) : (s.showCodec r).rst = s.rst := rfl
@[simp] theorem State.showCodec_codecOut (r : CodecResult) : (s.showCodec r).codecOut = some r := rfl

end Sys2Proof.Machine
end

