-- ==== Sys2Proof/Laws/Exec.lean ====
section
/-! SUPPORT. When a guarded operation completes, and which operation each state selects (00_scope.md R13, 30_encoding.md
R84, R85). -/

namespace Sys2Proof.Machine

/-- A configuration that R9 admits changes nothing. -/
theorem configured_of {s : State} (h : s.params.distinct) (k : Out) : configured s k = k := if_pos h

/-- A refused configuration gives no next state. -/
theorem configured_next {s t : State} {k : Out} (h : configured s k = .next t) :
    s.params.distinct ∧ k = .next t := by
  unfold configured at h
  split at h
  · exact ⟨‹_›, h⟩
  · cases h

/-- A selected operation does what its meaning says. -/
theorem operate_of {i : Instr} {s : State} (hp : s.params.distinct) (hf : s.fault = none)
    (hs : s.selected = some i) (k : Out) : operate i s k = k := by
  simp [operate, configured_of hp, hf, hs]

/-- An operation completes only in a configured, unmarked state that selects it. -/
theorem operate_next {i : Instr} {s t : State} {k : Out} (h : operate i s k = .next t) :
    s.params.distinct ∧ s.fault = none ∧ s.selected = some i ∧ k = .next t := by
  obtain ⟨hp, h⟩ := configured_next h
  cases hf : s.fault with
  | some m => rw [hf] at h; cases h
  | none =>
    rw [hf] at h
    by_cases hs : s.selected = some i
    · exact ⟨hp, rfl, hs, by simpa [hs] using h⟩
    · simp [hs] at h

theorem chanWrite_of {s : State} (h : s.chan.acceptsWrite = true) (b : Byte) (k : State → State) :
    chanWrite s b k = .next (k (s.writeDone b)) := if_pos h

theorem chanWrite_next {s t : State} {b : Byte} {k : State → State} (h : chanWrite s b k = .next t) :
    s.chan.acceptsWrite = true ∧ t = k (s.writeDone b) := by
  unfold chanWrite at h
  split at h
  · cases h; exact ⟨‹_›, rfl⟩
  · cases h

theorem chanClose_of {s : State} (h : s.chan.acceptsClose = true) (k : State → State) :
    chanClose s k = .next (k s.closeDone) := if_pos h

theorem chanClose_next {s t : State} {k : State → State} (h : chanClose s k = .next t) :
    s.chan.acceptsClose = true ∧ t = k s.closeDone := by
  unfold chanClose at h
  split at h
  · cases h; exact ⟨‹_›, rfl⟩
  · cases h

/-- The bits of the `VERDICT` data field are the flags (R84). -/
theorem verdictData_bits (h c q : Bool) :
    (verdictData h c q).getLsbD 2 = h ∧ (verdictData h c q).getLsbD 1 = c ∧ (verdictData h c q).getLsbD 0 = q := by
  revert h c q; decide

theorem openData_bit (ok : Bool) : (openData ok).getLsbD 0 = ok := by
  revert ok; decide

/-- The operation that a received byte selects in `HUNT` (R82). -/
def huntOp (p : Params) : ReadAnswer → Instr
  | .eos => .huntEos
  | .byte b => if b = p.eot then .huntEot else if b = p.soh then .huntSoh else .huntNoise b

/-- The operation that an answer selects in a body state (R83). -/
def bodyOp (body : BodySt) : ReadAnswer → Instr
  | .eos => .rxEos body
  | .byte b => match body with
    | .seq => .rxSeq b
    | .cmp => .rxCmp b
    | .pay => .rxPay b
    | .chk => .rxChk b

/-- The operation that the flags select in `VERDICT` (R85 rows 8 to 11). -/
def verdictOp (f : Flags) : Instr :=
  if f.hdrOk then if f.ckOk then if f.seqEq then .vdAcc else .vdAccWarn else .vdRejCk f.seqEq
  else .vdRejHdr f.ckOk f.seqEq

theorem selected_open {s : State} (h : s.st = .stOpen) :
    s.selected = s.chan.openAnswer.map (fun ok => if ok then .openOk else .openFail) := by
  unfold State.selected State.selector
  rw [h]
  cases s.chan.openAnswer with
  | none => rfl
  | some ok => simp only [decode_open, openData_bit, Option.map_some]

theorem selected_hunt {s : State} (h : s.st = .stHunt) :
    s.selected = s.chan.readAnswer.map (huntOp s.params) := by
  unfold State.selected State.selector
  rw [h]
  cases s.chan.readAnswer with
  | none => rfl
  | some a => cases a <;> simp [readSelector, decode_hunt, huntOp]

theorem selected_body {s : State} {body : BodySt} (h : s.st = body.st) :
    s.selected = s.chan.readAnswer.map (bodyOp body) := by
  have hb := fun d => decode_body s.params body d
  have hsel : s.selector = readSelector body.st s.chan.readAnswer := by
    unfold State.selector; rw [h]; cases body <;> rfl
  unfold State.selected
  rw [hsel]
  cases s.chan.readAnswer with
  | none => rfl
  | some a =>
    cases a with
    | eos => simp [readSelector, hb, bodyOp]
    | byte b => cases body <;> simp [readSelector, hb, bodyOp]

theorem selected_verdict {s : State} (h : s.st = .stVerdict) : s.selected = s.flags.map verdictOp := by
  unfold State.selected State.selector
  rw [h]
  cases s.flags with
  | none => rfl
  | some f =>
    have hb := verdictData_bits f.hdrOk f.ckOk f.seqEq
    simp only [decode_verdict, Flags.data, hb, verdictOp, Option.map_some]

theorem selected_handshake {s : State} (h : s.st = .stHandshake) : s.selected = some .hsNak := by
  unfold State.selected State.selector; rw [h]; exact (decode_plain s.params false 0).1

theorem selected_resp {s : State} (h : s.st = .stResp) : s.selected = some .txResp := by
  unfold State.selected State.selector; rw [h]; exact (decode_plain s.params false 0).2.1

theorem selected_eotAck {s : State} (h : s.st = .stEotAck) : s.selected = some .txEotAck := by
  unfold State.selected State.selector; rw [h]; exact (decode_plain s.params false 0).2.2.1

theorem selected_close {s : State} (h : s.st = .stClose) : s.selected = some .chClose := by
  unfold State.selected State.selector; rw [h]; exact (decode_plain s.params false 0).2.2.2.1

theorem selected_done {s : State} (h : s.st = .stDone) : s.selected = some .doneHalt := by
  unfold State.selected State.selector; rw [h]; exact (decode_plain s.params false 0).2.2.2.2

theorem selected_reserved {s : State} {low : BitVec 2} (h : s.st = .stReserved low) :
    s.selected = some (.badState low) := by
  unfold State.selected State.selector; rw [h]; exact decode_reserved s.params low false 0

/-- A state whose selected operation is `i` has a selector word that decodes to `i`. -/
theorem selected_word {s : State} {i : Instr} (h : s.selected = some i) :
    ∃ w, s.selector = .word w ∧ decode s.params w = some i := by
  unfold State.selected at h
  split at h
  · exact ⟨_, ‹_›, h⟩
  · cases h
  · cases h

/-- The step of an unmarked state that selects `i` is `i`. -/
theorem stepSelected_of {s : State} {i : Instr} (hf : s.fault = none) (hs : s.selected = some i) :
    stepSelected s = exec i s := by
  obtain ⟨w, hw, hd⟩ := selected_word hs
  simp [stepSelected, hf, hw, hd]

@[simp] theorem tick_selector (s : State) : s.tick.selector = s.selector := rfl

@[simp] theorem tick_selected (s : State) : s.tick.selected = s.selected := rfl

theorem tick_of_nil {s : State} (h : s.rst = []) : s.tick = s := by
  cases s; simp_all [State.tick]

end Sys2Proof.Machine
end

