-- ==== Sys2Proof/Laws/Moves.lean ====
section
/-! SUPPORT. Everything a step can do, said once: `Moves` has one case for each way an operation completes, and `step`
answers a next state exactly through one of them or through the reset action. -/

namespace Sys2Proof.Machine

/-- The ways from a state to its next one, without reset (R121 to R129, R141 to R152, R38, R64). -/
inductive Moves (s : State) : State → Prop
  | openOk : s.st = .stOpen → s.chan.openAnswer = some true → Moves s { s.openDone true with st := .stHandshake }
  | openFail : s.st = .stOpen → s.chan.openAnswer = some false →
      Moves s { (s.openDone false).emit .openFail with cause := .openFail, terminated := true, st := .stDone }
  | hsNak : s.st = .stHandshake → s.chan.acceptsWrite = true →
      Moves s { s.writeDone s.params.nak with st := .stHunt }
  | huntEos : s.st = .stHunt → s.chan.readAnswer = some .eos → Moves s s.fatal
  | huntEot : s.st = .stHunt → s.chan.readAnswer = some (.byte s.params.eot) →
      Moves s { s.readDone (.byte s.params.eot) with st := .stEotAck }
  | huntSoh : s.st = .stHunt → s.chan.readAnswer = some (.byte s.params.soh) →
      Moves s { s.readDone (.byte s.params.soh) with accR := some 0, st := .stBSeq }
  | huntNoise (b : Byte) : s.st = .stHunt → s.chan.readAnswer = some (.byte b) → b ≠ s.params.eot →
      b ≠ s.params.soh → Moves s (s.readDone (.byte b))
  | rejHdr (f : Flags) : s.st = .stVerdict → s.flags = some f → f.hdrOk = false → Moves s (s.reject .rejHeader)
  | rejCk (f : Flags) : s.st = .stVerdict → s.flags = some f → f.hdrOk = true → f.ckOk = false →
      Moves s (s.reject .rejChecksum)
  | acc (f : Flags) (p : Payload) (m : List Byte) : s.st = .stVerdict → s.flags = some f → f.hdrOk = true →
      f.ckOk = true → s.payR.read = some p →
      msgAppendAll s.params.msgCapacity s.msg (etxfilt s.params.etx p) = some m →
      Moves s { s.emit (if f.seqEq then .accept else .acceptSeqWarn) with
        msg := m, respR := some s.params.ack, incPend := true, st := .stResp }
  | accOverflow (f : Flags) (p : Payload) : s.st = .stVerdict → s.flags = some f → f.hdrOk = true →
      f.ckOk = true → s.payR.read = some p →
      msgAppendAll s.params.msgCapacity s.msg (etxfilt s.params.etx p) = none → Moves s (s.raise .msgOverflow)
  | accUnwritten (f : Flags) : s.st = .stVerdict → s.flags = some f → f.hdrOk = true → f.ckOk = true →
      s.payR.read = none → Moves s (s.raise .unwrittenRead)
  | verdictUnwritten : s.st = .stVerdict → s.flags = none → Moves s (s.raise .unwrittenRead)
  | rxEos (body : BodySt) : s.st = body.st → s.chan.readAnswer = some .eos → Moves s s.fatal
  | rxSeq (b : Byte) : s.st = .stBSeq → s.chan.readAnswer = some (.byte b) →
      Moves s { s.readDone (.byte b) with seqR := some b, st := .stBCmp }
  | rxCmp (b : Byte) : s.st = .stBCmp → s.chan.readAnswer = some (.byte b) →
      Moves s { s.readDone (.byte b) with cmpR := some b, pcnt := some 0, st := .stBPay }
  | rxPayMore (b : Byte) (n : BitVec 3) (a : Byte) (r : PayRegs) : s.st = .stBPay →
      s.chan.readAnswer = some (.byte b) → s.pcnt = some n → s.accR = some a → s.payR.write n b = some r → n ≠ 4 →
      Moves s { s.readDone (.byte b) with payR := r, accR := some (accum a b), pcnt := some (n + 1) }
  | rxPayLast (b : Byte) (a : Byte) (r : PayRegs) : s.st = .stBPay →
      s.chan.readAnswer = some (.byte b) → s.pcnt = some 4 → s.accR = some a → s.payR.write 4 b = some r →
      Moves s { s.readDone (.byte b) with payR := r, accR := some (accum a b), st := .stBChk }
  | rxPayUnwritten (b : Byte) : s.st = .stBPay → s.chan.readAnswer = some (.byte b) →
      s.pcnt = none ∨ s.accR = none → Moves s (s.raise .unwrittenRead)
  | rxChk (b : Byte) : s.st = .stBChk → s.chan.readAnswer = some (.byte b) →
      Moves s { s.readDone (.byte b) with chkR := some b, st := .stVerdict }
  | txResp (r : Byte) : s.st = .stResp → s.respR = some r → s.chan.acceptsWrite = true →
      Moves s { s.writeDone r with
        expSeq := if s.incPend then seqNext s.expSeq else s.expSeq, incPend := false, st := .stHunt }
  | txRespUnwritten : s.st = .stResp → s.respR = none → Moves s (s.raise .unwrittenRead)
  | txEotAck : s.st = .stEotAck → s.chan.acceptsWrite = true →
      Moves s { (s.writeDone s.params.ack).emit .eot with cause := .eot, st := .stClose }
  | chClose : s.st = .stClose → s.chan.acceptsClose = true →
      Moves s { s.closeDone with terminated := true, st := .stDone }
  | doneHalt : s.st = .stDone → Moves s s
  | badState (low : BitVec 2) : s.st = .stReserved low → Moves s (s.raise .badState)

/-- The verdict "accept" ends in one of three ways. -/
theorem accept_cases {s t : State} {o : OutcomeCode} (h : accept s o = .next t) :
    (s.payR.read = none ∧ t = s.raise .unwrittenRead) ∨ ∃ p, s.payR.read = some p ∧
      ((msgAppendAll s.params.msgCapacity s.msg (etxfilt s.params.etx p) = none ∧ t = s.raise .msgOverflow) ∨
        ∃ m, msgAppendAll s.params.msgCapacity s.msg (etxfilt s.params.etx p) = some m ∧
          t = { s.emit o with msg := m, respR := some s.params.ack, incPend := true, st := .stResp }) := by
  unfold accept at h
  split at h
  · cases h; exact .inl ⟨‹_›, rfl⟩
  · split at h
    · cases h; exact .inr ⟨_, ‹_›, .inl ⟨‹_›, rfl⟩⟩
    · cases h; exact .inr ⟨_, ‹_›, .inr ⟨_, ‹_›, rfl⟩⟩

/-- A move is one of the cases of `Moves`. -/
theorem stepSelected_moves {s t : State} (h : stepSelected s = .next t) :
    s.fault = none ∧ Moves s t := by
  cases hf : s.fault with
  | some m => simp [stepSelected, hf] at h
  | none =>
    refine ⟨rfl, ?_⟩
    have run : ∀ i, s.selected = some i → exec i s = .next t := fun i hi => (stepSelected_of hf hi) ▸ h
    have silent : s.selector = .silent → Moves s t := fun hs => by simp [stepSelected, hf, hs] at h
    cases hst : s.st with
    | stOpen =>
      cases ha : s.chan.openAnswer with
      | none => exact silent (by simp [State.selector, hst, ha])
      | some ok =>
        cases ok with
        | true =>
          have hs : s.selected = some .openOk := by simp [selected_open hst, ha]
          have := (operate_next (run _ hs)).2.2.2; cases this; exact .openOk hst ha
        | false =>
          have hs : s.selected = some .openFail := by simp [selected_open hst, ha]
          have := (operate_next (run _ hs)).2.2.2; cases this; exact .openFail hst ha
    | stHandshake =>
      have hc := chanWrite_next (operate_next (run _ (selected_handshake hst))).2.2.2
      rw [hc.2]; exact .hsNak hst hc.1
    | stHunt =>
      have hsel := selected_hunt hst
      cases ha : s.chan.readAnswer with
      | none => exact silent (by simp [State.selector, hst, ha, readSelector])
      | some a =>
        rw [ha] at hsel
        have hr := run _ hsel
        cases a with
        | eos => have := (operate_next hr).2.2.2; cases this; exact .huntEos hst ha
        | byte b =>
          simp only [huntOp] at hr
          split at hr
          · subst b; have := (operate_next hr).2.2.2; cases this; exact .huntEot hst ha
          · split at hr
            · subst b; have := (operate_next hr).2.2.2; cases this; exact .huntSoh hst ha
            · have := (operate_next hr).2.2.2; cases this; exact .huntNoise b hst ha ‹_› ‹_›
    | stVerdict =>
      have hsel := selected_verdict hst
      cases ha : s.flags with
      | none =>
        have : s.selector = .unwritten := by simp [State.selector, hst, ha]
        simp only [stepSelected, hf, this] at h
        cases h; exact .verdictUnwritten hst ha
      | some f =>
        rw [ha] at hsel
        have hr := run _ hsel
        simp only [verdictOp] at hr
        cases h1 : f.hdrOk <;> simp only [h1, Bool.false_eq_true, if_true, if_false] at hr
        · have := (operate_next hr).2.2.2; cases this; exact .rejHdr f hst ha h1
        cases h2 : f.ckOk <;> simp only [h2, Bool.false_eq_true, if_true, if_false] at hr
        · have := (operate_next hr).2.2.2; cases this; exact .rejCk f hst ha h1 h2
        have key : accept s (if f.seqEq then .accept else .acceptSeqWarn) = .next t := by
          cases h3 : f.seqEq <;> simp only [h3, Bool.false_eq_true, if_true, if_false] at hr ⊢ <;>
            exact (operate_next hr).2.2.2
        obtain ⟨hp', rfl⟩ | ⟨p, hp', ⟨hm, rfl⟩ | ⟨m, hm, rfl⟩⟩ := accept_cases key
        · exact .accUnwritten f hst ha h1 h2 hp'
        · exact .accOverflow f p hst ha h1 h2 hp' hm
        · exact .acc f p m hst ha h1 h2 hp' hm
    | stBSeq =>
      have hsel := selected_body (body := .seq) hst
      cases ha : s.chan.readAnswer with
      | none => exact silent (by simp [State.selector, hst, ha, readSelector])
      | some a =>
        rw [ha] at hsel
        have hr := run _ hsel
        cases a <;> have := (operate_next hr).2.2.2 <;> cases this
        · exact .rxSeq _ hst ha
        · exact .rxEos .seq hst ha
    | stBCmp =>
      have hsel := selected_body (body := .cmp) hst
      cases ha : s.chan.readAnswer with
      | none => exact silent (by simp [State.selector, hst, ha, readSelector])
      | some a =>
        rw [ha] at hsel
        have hr := run _ hsel
        cases a <;> have := (operate_next hr).2.2.2 <;> cases this
        · exact .rxCmp _ hst ha
        · exact .rxEos .cmp hst ha
    | stBPay =>
      have hsel := selected_body (body := .pay) hst
      cases ha : s.chan.readAnswer with
      | none => exact silent (by simp [State.selector, hst, ha, readSelector])
      | some a =>
        rw [ha] at hsel
        have hr := run _ hsel
        cases a with
        | eos => have := (operate_next hr).2.2.2; cases this; exact .rxEos .pay hst ha
        | byte b =>
          have hk := (operate_next hr).2.2.2
          cases hn : s.pcnt with
          | none => simp only [hn] at hk; cases hk; exact .rxPayUnwritten b hst ha (.inl hn)
          | some n =>
            cases hc : s.accR with
            | none => simp only [hn, hc] at hk; cases hk; exact .rxPayUnwritten b hst ha (.inr hc)
            | some c =>
              simp only [hn, hc, rxPayStore] at hk
              cases hw : s.payR.write n b with
              | none => simp [hw] at hk
              | some r =>
                simp only [hw] at hk
                by_cases h4 : n = 4
                · subst h4
                  simp only [if_true] at hk
                  cases hk; exact .rxPayLast b c r hst ha hn hc hw
                · simp only [h4, if_false] at hk
                  cases hk; exact .rxPayMore b n c r hst ha hn hc hw h4
    | stBChk =>
      have hsel := selected_body (body := .chk) hst
      cases ha : s.chan.readAnswer with
      | none => exact silent (by simp [State.selector, hst, ha, readSelector])
      | some a =>
        rw [ha] at hsel
        have hr := run _ hsel
        cases a <;> have := (operate_next hr).2.2.2 <;> cases this
        · exact .rxChk _ hst ha
        · exact .rxEos .chk hst ha
    | stResp =>
      have hk := (operate_next (run _ (selected_resp hst))).2.2.2
      cases hr : s.respR with
      | none => simp only [hr] at hk; cases hk; exact .txRespUnwritten hst hr
      | some r =>
        simp only [hr] at hk
        have hc := chanWrite_next hk
        rw [hc.2]; exact .txResp r hst hr hc.1
    | stEotAck =>
      have hc := chanWrite_next (operate_next (run _ (selected_eotAck hst))).2.2.2
      rw [hc.2]; exact .txEotAck hst hc.1
    | stClose =>
      have hc := chanClose_next (operate_next (run _ (selected_close hst))).2.2.2
      rw [hc.2]; exact .chClose hst hc.1
    | stDone => have := (operate_next (run _ (selected_done hst))).2.2.2; cases this; exact .doneHalt hst
    | stReserved low =>
      have := (operate_next (run _ (selected_reserved hst))).2.2.2; cases this; exact .badState low hst

/-- Everything a step can do. -/
theorem step_moves {s t : State} (h : step s = .next t) :
    s.params.distinct ∧ ((s.rstNow = true ∧ t = s.tick.resetAll) ∨
      (s.rstNow = false ∧ s.fault = none ∧ Moves s.tick t)) := by
  obtain ⟨hp, h⟩ := configured_next h
  refine ⟨hp, ?_⟩
  cases hr : s.rstNow with
  | true =>
    rw [hr, if_pos rfl] at h
    have := (configured_next h).2; cases this; exact .inl ⟨rfl, rfl⟩
  | false =>
    rw [hr, if_neg (by simp)] at h
    exact .inr ⟨rfl, stepSelected_moves (s := s.tick) h⟩

/-- Every case of `Moves` is what the step of an unmarked, configured state does. -/
theorem stepSelected_of_moves {s t : State} (hp : s.params.distinct) (hf : s.fault = none) (h : Moves s t) :
    stepSelected s = .next t := by
  have go : ∀ {i : Instr} {k : Out}, s.selected = some i → exec i s = operate i s k → stepSelected s = k :=
    fun hs he => by rw [stepSelected_of hf hs, he, operate_of hp hf hs]
  cases h with
  | openOk hst ha => exact go (by simp [selected_open hst, ha]; rfl) rfl
  | openFail hst ha => exact go (by simp [selected_open hst, ha]; rfl) rfl
  | hsNak hst ha => exact (go (selected_handshake hst) rfl).trans (chanWrite_of ha _ _)
  | huntEos hst ha => exact go (by rw [selected_hunt hst, ha]; rfl) rfl
  | huntEot hst ha => exact go (by simp [selected_hunt hst, ha, huntOp]; rfl) rfl
  | huntSoh hst ha =>
    have hne : s.params.soh ≠ s.params.eot := by intro h; simp [h] at hp
    exact go (by simp [selected_hunt hst, ha, huntOp, hne]; rfl) rfl
  | huntNoise b hst ha h1 h2 => exact go (by simp [selected_hunt hst, ha, huntOp, h1, h2]; rfl) rfl
  | rejHdr f hst ha h1 => exact go (by simp [selected_verdict hst, ha, verdictOp, h1]; rfl) rfl
  | rejCk f hst ha h1 h2 => exact go (by simp [selected_verdict hst, ha, verdictOp, h1, h2]; rfl) rfl
  | acc f p m hst ha h1 h2 hr hm =>
    cases h3 : f.seqEq
    · exact (go (by simp [selected_verdict hst, ha, verdictOp, h1, h2, h3]; rfl) rfl).trans
        (by simp [accept, hr, hm])
    · exact (go (by simp [selected_verdict hst, ha, verdictOp, h1, h2, h3]; rfl) rfl).trans
        (by simp [accept, hr, hm])
  | accOverflow f p hst ha h1 h2 hr hm =>
    cases h3 : f.seqEq
    · exact (go (by simp [selected_verdict hst, ha, verdictOp, h1, h2, h3]; rfl) rfl).trans
        (by simp [accept, hr, hm])
    · exact (go (by simp [selected_verdict hst, ha, verdictOp, h1, h2, h3]; rfl) rfl).trans
        (by simp [accept, hr, hm])
  | accUnwritten f hst ha h1 h2 hr =>
    cases h3 : f.seqEq
    · exact (go (by simp [selected_verdict hst, ha, verdictOp, h1, h2, h3]; rfl) rfl).trans (by simp [accept, hr])
    · exact (go (by simp [selected_verdict hst, ha, verdictOp, h1, h2, h3]; rfl) rfl).trans (by simp [accept, hr])
  | verdictUnwritten hst ha => simp [stepSelected, hf, State.selector, hst, ha]
  | rxEos body hst ha => exact go (by rw [selected_body hst, ha]; rfl) rfl
  | rxSeq b hst ha => exact go (by rw [selected_body (body := .seq) hst, ha]; rfl) rfl
  | rxCmp b hst ha => exact go (by rw [selected_body (body := .cmp) hst, ha]; rfl) rfl
  | rxPayMore b n a r hst ha hn hc hw h4 =>
    exact (go (by rw [selected_body (body := .pay) hst, ha]; rfl) rfl).trans (by simp only [hn, hc, rxPayStore, hw, if_neg h4])
  | rxPayLast b a r hst ha hn hc hw =>
    exact (go (by rw [selected_body (body := .pay) hst, ha]; rfl) rfl).trans (by simp only [hn, hc, rxPayStore, hw, if_true])
  | rxPayUnwritten b hst ha hu =>
    refine (go (by rw [selected_body (body := .pay) hst, ha]; rfl) rfl).trans ?_
    cases hn : s.pcnt <;> cases hc : s.accR <;> simp_all
  | rxChk b hst ha => exact go (by rw [selected_body (body := .chk) hst, ha]; rfl) rfl
  | txResp r hst hr ha => exact (go (selected_resp hst) rfl).trans (by simp only [hr]; exact chanWrite_of ha _ _)
  | txRespUnwritten hst hr => exact (go (selected_resp hst) rfl).trans (by simp only [hr])
  | txEotAck hst ha => exact (go (selected_eotAck hst) rfl).trans (chanWrite_of ha _ _)
  | chClose hst ha => exact (go (selected_close hst) rfl).trans (chanClose_of ha _)
  | doneHalt hst => exact go (selected_done hst) rfl
  | badState low hst => exact go (selected_reserved hst) rfl

/-- A move of a configured, unmarked state, with `rst` not asserted, is its step. -/
theorem step_of_moves {s t : State} (hp : s.params.distinct) (hf : s.fault = none) (hr : s.rstNow = false)
    (h : Moves s.tick t) : step s = .next t := by
  rw [step, configured_of hp, hr, if_neg (by simp)]
  exact stepSelected_of_moves (s := s.tick) hp hf h

end Sys2Proof.Machine
end

