-- ==== Sys2Proof/Laws/PerInstr.lean ====
section
/-! SUPPORT. The family `RoundTrip`: decoding the selector word of a well-formed operation gives the operation back, one
lemma per constructor (30_encoding.md R84, R85). -/

namespace Sys2Proof.Laws.RoundTrip

/-- The selector word of a well-formed operation, if it has one, decodes to it. -/
def Statement (i : Instr) : Prop :=
  ∀ (p : Params) (w : Sel), p.distinct → i.wf p = true → encode p i = some w → decode p w = some i

theorem openFail : Statement .openFail := by
  intro p w _ _ h; cases h; rw [decode_open]; rfl

theorem openOk : Statement .openOk := by
  intro p w _ _ h; cases h; rw [decode_open]; rfl

theorem hsNak : Statement .hsNak := by
  intro p w _ _ h; cases h; exact (decode_plain p false 0).1

theorem huntEos : Statement .huntEos := by
  intro p w _ _ h; cases h; rw [decode_hunt]; rfl

theorem huntEot : Statement .huntEot := by
  intro p w _ _ h; cases h; simp [decode_hunt]

theorem huntSoh : Statement .huntSoh := by
  intro p w hp _ h
  cases h
  have hne : p.soh ≠ p.eot := by intro h; simp [h] at hp
  simp [decode_hunt, hne]

theorem huntNoise (b : Byte) : Statement (.huntNoise b) := by
  intro p w _ hw h; cases h
  simp only [Instr.wf, Bool.and_eq_true, bne_iff_ne, ne_eq] at hw
  simp [decode_hunt, hw]

theorem vdRejHdr (ckOk seqEq : Bool) : Statement (.vdRejHdr ckOk seqEq) := by
  intro p w _ _ h; cases h; rw [decode_verdict]; cases ckOk <;> cases seqEq <;> rfl

theorem vdRejCk (seqEq : Bool) : Statement (.vdRejCk seqEq) := by
  intro p w _ _ h; cases h; rw [decode_verdict]; cases seqEq <;> rfl

theorem vdAcc : Statement .vdAcc := by
  intro p w _ _ h; cases h; rw [decode_verdict]; rfl

theorem vdAccWarn : Statement .vdAccWarn := by
  intro p w _ _ h; cases h; rw [decode_verdict]; rfl

theorem rxEos (body : BodySt) : Statement (.rxEos body) := by
  intro p w _ _ h; cases h; exact (decode_body p body 0).1

theorem rxSeq (b : Byte) : Statement (.rxSeq b) := by
  intro p w _ _ h; cases h; exact (decode_body p .seq b).2

theorem rxCmp (b : Byte) : Statement (.rxCmp b) := by
  intro p w _ _ h; cases h; exact (decode_body p .cmp b).2

theorem rxPay (b : Byte) : Statement (.rxPay b) := by
  intro p w _ _ h; cases h; exact (decode_body p .pay b).2

theorem rxChk (b : Byte) : Statement (.rxChk b) := by
  intro p w _ _ h; cases h; exact (decode_body p .chk b).2

theorem txResp : Statement .txResp := by
  intro p w _ _ h; cases h; exact (decode_plain p false 0).2.1

theorem txEotAck : Statement .txEotAck := by
  intro p w _ _ h; cases h; exact (decode_plain p false 0).2.2.1

theorem chClose : Statement .chClose := by
  intro p w _ _ h; cases h; exact (decode_plain p false 0).2.2.2.1

theorem doneHalt : Statement .doneHalt := by
  intro p w _ _ h; cases h; exact (decode_plain p false 0).2.2.2.2

theorem badState (low : BitVec 2) : Statement (.badState low) := by
  intro p w _ _ h; cases h; exact decode_reserved p low false 0

theorem cksum (q : Payload) : Statement (.cksum q) := by
  intro p w _ _ h; cases h

theorem hdrchk (s c : Byte) : Statement (.hdrchk s c) := by
  intro p w _ _ h; cases h

theorem ckchk (q : Payload) (k : Byte) : Statement (.ckchk q k) := by
  intro p w _ _ h; cases h

theorem accum (a b : Byte) : Statement (.accum a b) := by
  intro p w _ _ h; cases h

theorem etxfilt (q : Payload) : Statement (.etxfilt q) := by
  intro p w _ _ h; cases h

theorem reset : Statement .reset := by
  intro p w _ _ h; cases h

end Sys2Proof.Laws.RoundTrip
end

