-- ==== Sys2Proof/Tests/Slice0.lean ====
section
/-! SUPPORT. Tests: the checks of well-formedness each refuse an ill-formed term; every constructor is decoded from a word
written out from spec/30_encoding.md R84, R85; one step of each operation against the vectors of spec/95_test_vectors.md
L2.1 to L2.4; and for every statement with hypotheses a witness that meets them, clause by clause. -/

namespace Sys2Proof.Tests

open Sys2Proof.Machine

/-! ## Helpers -/

/-- What a function shows of the next state; nothing where a step stops. -/
def after {α : Type} (o : Out) (f : State → α) : Option α :=
  match o with
  | .next t => some (f t)
  | .fault _ => none
  | .refused _ => none

/-- The state after up to `n` steps, before the first stop. -/
def runTo : Nat → State → State
  | 0, s => s
  | n + 1, s => match step s with
    | .next t => runTo n t
    | .fault _ => s
    | .refused _ => s

theorem reaches_runTo (n : Nat) {s u : State} (h : Reaches u s) : Reaches u (runTo n s) := by
  induction n generalizing s with
  | zero => exact h
  | succ n ih =>
    unfold runTo
    split
    · exact ih (h.step ‹_›)
    · exact h
    · exact h

/-- The reset state before a scripted source. -/
def before (script : List Token) : State := State.reset.withScript script

/-- A state with the given state code, before a source that gives nothing but takes every write and the close. -/
def inState (st : StCode) : State := { before [] with st := st }

/-- A state whose read is answered `a`. -/
def reading (st : StCode) (a : ReadAnswer) : State :=
  { inState st with chan := { (before []).chan with reads := [some a] } }

/-- A channel that answers nothing. -/
def silence : Channel :=
  { opens := [none], reads := [none], writes := [false], closes := [false], beyond := .scripted, draws := 0 }

/-- The payload registers that hold `HELLO`. -/
def hello : PayRegs := PayRegs.written ⟨0x48, 0x45, 0x4C, 0x4C, 0x4F⟩

/-- A received frame at the verdict. -/
def judged (q c : Byte) (regs : PayRegs) (acc k exp : Byte) : State :=
  { inState .stVerdict with seqR := some q, cmpR := some c, payR := regs, accR := some acc, chkR := some k, expSeq := exp }

/-- The state with a capacity of the message and some bytes in it. -/
def holding (s : State) (cap : Option Nat) (m : List Byte) : State :=
  { s with params := { s.params with msgCapacity := cap }, msg := m }

/-- `RESP` with the response and the increment pending. -/
def responding (r : Byte) (pend : Bool) (exp : Byte) : State :=
  { inState .stResp with respR := some r, incPend := pend, expSeq := exp }

/-- `B_PAY` with the counter and the accumulator, its read answered `b`. -/
def paying (n : BitVec 3) (acc b : Byte) : State :=
  { reading .stBPay (.byte b) with pcnt := some n, accR := some acc }

/-- Parameters that R9 does not admit: `ACK` equal to `NAK`. -/
def equalBytes : Params := { Params.default with ack := 0x15 }

/-! ## Ill-formed terms are refused (R9, R82, R85, R87, R88, R80) -/

theorem test_wf_noise_is_not_eot : (Instr.huntNoise 0x04).wf Params.default = false := by decide
theorem test_wf_noise_is_not_soh : (Instr.huntNoise 0x01).wf Params.default = false := by decide
theorem test_wf_noise : (Instr.huntNoise 0x18).wf Params.default = true := by decide
theorem test_wf_char_beyond_ascii : (ScriptByte.char (Char.ofNat 0x80)).wf = false := by decide
theorem test_wf_text_beyond_ascii : (Token.text ['A', Char.ofNat 0x80]).wf = false := by decide
theorem test_wf_openFail_not_first : scriptWf [.eos, .openFail] = false := by decide
theorem test_wf_openFail_first : scriptWf [.openFail, .eos] = true := by decide
theorem test_wf_block_of_six : (Token.block 1 (List.replicate 6 (.hex 0x41))).wf = false := by decide
theorem test_wf_badHdr_of_six : (Token.badHdr 1 (List.replicate 6 (.hex 0x41))).wf = false := by decide
theorem test_wf_badCk_of_six : (Token.badCk 1 (List.replicate 6 (.hex 0x41))).wf = false := by decide
theorem test_wf_block_of_five : (Token.block 1 (List.replicate 5 (.hex 0x41))).wf = true := by decide
theorem test_wf_block_beyond_ascii : (Token.block 1 [.char (Char.ofNat 0x80)]).wf = false := by decide
theorem test_wf_trunc_of_openFail : (Token.trunc 1 .openFail).wf = false := by decide
theorem test_equal_bytes_not_distinct : ¬ equalBytes.distinct := by decide
theorem test_frame_too_short : Frame.ofBytes Params.default [0x01, 0x01] = .error .wrongLength := by rfl
theorem test_frame_without_soh :
    Frame.ofBytes Params.default [0x02, 1, 0xFE, 0x48, 0x45, 0x4C, 0x4C, 0x4F, 0x74] = .error .noStartMarker := by rfl

/-! ## Decoding: words written out from R84, R85 as `st` `eos` `data` -/

theorem test_decode_openFail : decodeTableWord 16 0b0000_0_00000000 = some .openFail := by decide
theorem test_decode_openOk : decodeTableWord 16 0b0000_0_00000001 = some .openOk := by decide
theorem test_decode_hsNak : decodeTableWord 16 0b0001_0_00000000 = some .hsNak := by decide
theorem test_decode_huntEos : decodeTableWord 16 0b0010_1_00000000 = some .huntEos := by decide
theorem test_decode_huntEot : decodeTableWord 16 0b0010_0_00000100 = some .huntEot := by decide
theorem test_decode_huntSoh : decodeTableWord 16 0b0010_0_00000001 = some .huntSoh := by decide
theorem test_decode_huntNoise : decodeTableWord 16 0b0010_0_01010101 = some (.huntNoise 0x55) := by decide
theorem test_decode_vdRejHdr : decodeTableWord 16 0b0011_0_00000_0_1_0 = some (.vdRejHdr true false) := by decide
theorem test_decode_vdRejCk : decodeTableWord 16 0b0011_0_00000_1_0_1 = some (.vdRejCk true) := by decide
theorem test_decode_vdAcc : decodeTableWord 16 0b0011_0_00000_1_1_1 = some .vdAcc := by decide
theorem test_decode_vdAccWarn : decodeTableWord 16 0b0011_0_00000_1_1_0 = some .vdAccWarn := by decide
theorem test_decode_rxEos_seq : decodeTableWord 16 0b0100_1_00000000 = some (.rxEos .seq) := by decide
theorem test_decode_rxEos_cmp : decodeTableWord 16 0b0101_1_00000000 = some (.rxEos .cmp) := by decide
theorem test_decode_rxEos_pay : decodeTableWord 16 0b0110_1_00000000 = some (.rxEos .pay) := by decide
theorem test_decode_rxEos_chk : decodeTableWord 16 0b0111_1_00000000 = some (.rxEos .chk) := by decide
theorem test_decode_rxSeq : decodeTableWord 16 0b0100_0_00000001 = some (.rxSeq 0x01) := by decide
theorem test_decode_rxCmp : decodeTableWord 16 0b0101_0_11111110 = some (.rxCmp 0xFE) := by decide
theorem test_decode_rxPay : decodeTableWord 16 0b0110_0_00000100 = some (.rxPay 0x04) := by decide
theorem test_decode_rxChk : decodeTableWord 16 0b0111_0_01110100 = some (.rxChk 0x74) := by decide
theorem test_decode_txResp : decodeTableWord 16 0b1000_0_00000000 = some .txResp := by decide
theorem test_decode_txEotAck : decodeTableWord 16 0b1001_0_00000000 = some .txEotAck := by decide
theorem test_decode_chClose : decodeTableWord 16 0b1010_0_00000000 = some .chClose := by decide
theorem test_decode_doneHalt : decodeTableWord 16 0b1011_0_00000000 = some .doneHalt := by decide
theorem test_decode_badState_low : decodeTableWord 16 0b1100_0_00000000 = some (.badState 0) := by decide
theorem test_decode_badState_high : decodeTableWord 16 0b1111_0_00000000 = some (.badState 3) := by decide
theorem test_decode_bit_above : decodeNat Params.default 0x2001 = .error .notASelector := by rfl

/-- R85: `EOT` and `SOH` of the rows are the parameters' bytes, so other parameters move them. -/
theorem test_decode_follows_parameters :
    decode { Params.default with eot := 0x55 } 0x0455 = some .huntEot ∧
    decode { Params.default with eot := 0x55 } 0x0404 = some (.huntNoise 0x04) := by decide

/-- The codec functions and the reset action have no selector word (R85). -/
theorem test_no_selector :
    encode Params.default (.cksum ⟨0, 0, 0, 0, 0⟩) = none ∧ encode Params.default (.hdrchk 0 0) = none ∧
    encode Params.default (.ckchk ⟨0, 0, 0, 0, 0⟩ 0) = none ∧ encode Params.default (.accum 0 0) = none ∧
    encode Params.default (.etxfilt ⟨0, 0, 0, 0, 0⟩) = none ∧ encode Params.default .reset = none := by decide

/-! ## The placed word is what the very next step runs -/

theorem test_placed_after_reset :
    (State.reset.withFetchWord 16 0x0607).selected = some .vdAcc ∧
    after (step (State.reset.withFetchWord 16 0x0607)) State.st = some .stResp := by decide

/-! ## One step of each framer operation (L2.3) -/

theorem test_huntEos :
    after (step { reading .stHunt .eos with msg := [0x48], expSeq := 2 })
      (fun t => (t.st, t.cause, t.msg, t.expSeq, t.history))
      = some (.stClose, .ioFault, [0x48], 2, [.rd .eos, .out .ioFault]) := by decide

theorem test_huntEot :
    after (step (reading .stHunt (.byte 0x04))) (fun t => (t.st, t.history))
      = some (.stEotAck, [.rd (.byte 0x04)]) := by decide

theorem test_huntSoh :
    after (step { reading .stHunt (.byte 0x01) with accR := some 0x74 }) (fun t => (t.st, t.accR, t.history))
      = some (.stBSeq, some 0x00, [.rd (.byte 0x01)]) := by decide

theorem test_huntNoise_ack :
    after (step (reading .stHunt (.byte 0x06))) (fun t => (t.st, t.outcomes, t.history))
      = some (.stHunt, [], [.rd (.byte 0x06)]) := by decide

theorem test_huntNoise_can :
    after (step (reading .stHunt (.byte 0x18))) (fun t => (t.st, t.outcomes, t.history))
      = some (.stHunt, [], [.rd (.byte 0x18)]) := by decide

theorem test_rxSeq_eot_value :
    after (step (reading .stBSeq (.byte 0x04))) (fun t => (t.st, t.seqR)) = some (.stBCmp, some 0x04) := by decide

theorem test_rxCmp :
    after (step (reading .stBCmp (.byte 0xFB))) (fun t => (t.st, t.cmpR, t.pcnt))
      = some (.stBPay, some 0xFB, some 0) := by decide

theorem test_rxPay_wraps :
    after (step (paying 3 0xFB 0x10)) (fun t => (t.st, t.payR, t.accR, t.pcnt))
      = some (.stBPay, ⟨none, none, none, some 0x10, none⟩, some 0x0B, some 4) := by decide

theorem test_rxPay_last :
    after (step (paying 4 0x25 0x4F)) (fun t => (t.st, t.payR, t.accR, t.pcnt))
      = some (.stBChk, ⟨none, none, none, none, some 0x4F⟩, some 0x74, some 4) := by decide

theorem test_rxChk :
    after (step (reading .stBChk (.byte 0x74))) (fun t => (t.st, t.chkR)) = some (.stVerdict, some 0x74) := by decide

theorem test_rxEos :
    after (step { reading .stBPay .eos with pcnt := some 1, accR := some 0x57 })
      (fun t => (t.st, t.cause, t.accR, t.history))
      = some (.stClose, .ioFault, some 0x57, [.rd .eos, .out .ioFault]) := by decide

/-! ## One step of each receiver operation (L2.4) -/

theorem test_openOk :
    after (step (before [])) (fun t => (t.st, t.history)) = some (.stHandshake, [.opened true]) := by decide

theorem test_openFail :
    after (step (before [.openFail])) (fun t => (t.st, t.cause, t.lastOutcome, t.terminated, t.history))
      = some (.stDone, .openFail, .openFail, true, [.opened false, .out .openFail]) := by decide

theorem test_hsNak :
    after (step (inState .stHandshake)) (fun t => (t.st, t.history)) = some (.stHunt, [.wr 0x15]) := by decide

theorem test_vdRejHdr_before_checksum :
    after (step (judged 0x01 0xFF hello 0x74 0x00 1)) (fun t => (t.st, t.respR, t.incPend, t.msg, t.history))
      = some (.stResp, some 0x15, false, [], [.out .rejHeader]) := by decide

theorem test_vdRejCk_without_warning :
    after (step (judged 0x01 0xFE hello 0x74 0x75 9)) (fun t => (t.st, t.respR, t.incPend, t.msg, t.history))
      = some (.stResp, some 0x15, false, [], [.out .rejChecksum]) := by decide

theorem test_vdAcc :
    after (step (judged 0x01 0xFE hello 0x74 0x74 1)) (fun t => (t.msg, t.respR, t.incPend, t.expSeq, t.history))
      = some ([0x48, 0x45, 0x4C, 0x4C, 0x4F], some 0x06, true, 1, [.out .accept]) := by decide

theorem test_vdAcc_overflow :
    after (step (holding (judged 0x01 0xFE hello 0x74 0x74 1) (some 7) [1, 2, 3, 4, 5]))
      (fun t => (t.st, t.msg, t.fault, t.history)) = some (.stVerdict, [1, 2, 3, 4, 5], some .msgOverflow, []) := by decide

theorem test_vdAccWarn :
    after (step (judged 0x04 0xFB (PayRegs.written ⟨0x01, 0x04, 0x03, 0x15, 0x00⟩) 0x1D 0x1D 1))
      (fun t => (t.st, t.msg, t.respR, t.incPend, t.history))
      = some (.stResp, [0x01, 0x04, 0x15, 0x00], some 0x06, true, [.out .acceptSeqWarn]) := by decide

theorem test_vdAccWarn_sequence_zero :
    after (step (judged 0x00 0xFF (PayRegs.written ⟨0x58, 0x03, 0x03, 0x03, 0x03⟩) 0x64 0x64 1))
      (fun t => (t.msg, t.respR, t.history)) = some ([0x58], some 0x06, [.out .acceptSeqWarn]) := by decide

theorem test_txResp_wraps :
    after (step (responding 0x06 true 0xFF)) (fun t => (t.st, t.expSeq, t.incPend, t.history))
      = some (.stHunt, 0x00, false, [.wr 0x06]) := by decide

theorem test_txResp_nak :
    after (step (responding 0x15 false 7)) (fun t => (t.st, t.expSeq, t.history))
      = some (.stHunt, 7, [.wr 0x15]) := by decide

theorem test_txEotAck :
    after (step { inState .stEotAck with expSeq := 4 }) (fun t => (t.st, t.cause, t.lastOutcome, t.expSeq, t.history))
      = some (.stClose, .eot, .eot, 4, [.wr 0x06, .out .eot]) := by decide

theorem test_chClose :
    after (step { inState .stClose with cause := .ioFault }) (fun t => (t.st, t.terminated, t.cause, t.history))
      = some (.stDone, true, .ioFault, [.closed]) := by decide

theorem test_doneHalt : after (step (inState .stDone)) (fun t => (t.st, t.history)) = some (.stDone, []) := by decide

theorem test_badState :
    after (step (inState (.stReserved 1))) (fun t => (t.st, t.fault, t.history))
      = some (.stReserved 1, some .badState, []) := by decide

theorem test_reset :
    after (step { judged 0x01 0xFE hello 0x74 0x74 9 with fault := some .msgOverflow, rst := [true] })
      (fun t => (t.st, t.expSeq, t.seqR, t.payR, t.fault))
      = some (.stOpen, 1, none, PayRegs.unwritten, none) := by decide

/-! ## The codec functions (L2.1) -/

theorem test_cksum :
    after (exec (.cksum ⟨0x48, 0x45, 0x4C, 0x4C, 0x4F⟩) State.reset) State.codecOut = some (some (.byte 0x74)) := by decide

theorem test_cksum_wraps :
    after (exec (.cksum ⟨0xFF, 0xFF, 0xFF, 0xFF, 0xFF⟩) State.reset) State.codecOut = some (some (.byte 0xFB)) := by decide

theorem test_hdrchk :
    after (exec (.hdrchk 0x04 0xFB) State.reset) State.codecOut = some (some (.flag true)) := by decide

theorem test_hdrchk_false :
    after (exec (.hdrchk 0x01 0xFF) State.reset) State.codecOut = some (some (.flag false)) := by decide

theorem test_ckchk_swap :
    after (exec (.ckchk ⟨0x45, 0x48, 0x4C, 0x4C, 0x4F⟩ 0x74) State.reset) State.codecOut
      = some (some (.flag true)) := by decide

theorem test_ckchk_false :
    after (exec (.ckchk ⟨0x48, 0x45, 0x4C, 0x4C, 0x4F⟩ 0x75) State.reset) State.codecOut
      = some (some (.flag false)) := by decide

theorem test_accum_wraps :
    after (exec (.accum 0xFB 0x10) State.reset) State.codecOut = some (some (.byte 0x0B)) := by decide

theorem test_etxfilt_middle :
    after (exec (.etxfilt ⟨0x41, 0x03, 0x42, 0x03, 0x43⟩) State.reset) State.codecOut
      = some (some (.bytes [0x41, 0x42, 0x43])) := by decide

/-! ## Scripts (L1.4, L3 P2) -/

theorem test_badCk_bytes :
    expandToken Params.default (.badCk 1 [.char 'H', .char 'E', .char 'L', .char 'L', .char 'O'])
      = ([0x01, 0x01, 0xFE, 0x48, 0x45, 0x4C, 0x4C, 0x4F, 0x75].map ReadAnswer.byte) := by decide

theorem test_badHdr_bytes :
    expandToken Params.default (.badHdr 2 [.char 'T', .char 'H', .char 'E', .char 'R', .char 'E'])
      = ([0x01, 0x02, 0xFC, 0x54, 0x48, 0x45, 0x52, 0x45, 0x78].map ReadAnswer.byte) := by decide

theorem test_trunc_bytes :
    expandToken Params.default (.trunc 4 (.block 2 [.char 'W', .char 'O', .char 'R', .char 'L', .char 'D']))
      = ([0x01, 0x02, 0xFD, 0x57].map ReadAnswer.byte) := by decide

/-! ## Witnesses: a state and operands that meet the hypotheses of each statement, clause by clause -/

theorem witness_OpenOkEntersHandshake :
    (before []).Ready ∧ (before []).st = .stOpen ∧ (before []).chan.openAnswer = some true := by decide

theorem witness_OpenFailureEndsTheSession :
    (before [.openFail]).Ready ∧ (before [.openFail]).st = .stOpen ∧
    (before [.openFail]).chan.openAnswer = some false := by decide

theorem witness_HandshakeWritesNak :
    (inState .stHandshake).Ready ∧ (inState .stHandshake).st = .stHandshake ∧
    (inState .stHandshake).chan.acceptsWrite = true := by decide

theorem witness_EndOfStreamEntersClose_hunt :
    (inState .stHunt).Ready ∧ (inState .stHunt).chan.readAnswer = some .eos ∧ (inState .stHunt).st = .stHunt := by decide

theorem witness_EndOfStreamEntersClose_body : ∀ body : BodySt,
    (inState body.st).Ready ∧ (inState body.st).chan.readAnswer = some .eos ∧ (inState body.st).st = body.st := by
  rintro (_ | _ | _ | _) <;> decide

theorem witness_EotInHuntGoesToEotAck :
    let s := reading .stHunt (.byte 0x04)
    s.Ready ∧ s.st = .stHunt ∧ s.chan.readAnswer = some (.byte s.params.eot) := by decide

theorem witness_SohInHuntStartsAFrame :
    let s := reading .stHunt (.byte 0x01)
    s.Ready ∧ s.st = .stHunt ∧ s.chan.readAnswer = some (.byte s.params.soh) := by decide

theorem witness_NoiseInHuntIsDiscarded : ∀ b ∈ [(0x00 : Byte), 0xFF],
    let s := reading .stHunt (.byte b)
    s.Ready ∧ s.st = .stHunt ∧ s.chan.readAnswer = some (.byte b) ∧ b ≠ s.params.eot ∧ b ≠ s.params.soh := by decide

theorem witness_HeaderAndChecksumBytesAreStored :
    ∀ st ∈ [StCode.stBSeq, .stBCmp, .stBChk], ∀ b ∈ [(0x00 : Byte), 0xFF],
      let s := reading st (.byte b)
      s.Ready ∧ s.chan.readAnswer = some (.byte b) ∧ s.st = st := by decide

theorem witness_PayloadByteIsStoredAndSummed : ∀ n ∈ [(0 : BitVec 3), 3, 4],
    let s := paying n 0xFB 0x10
    s.Ready ∧ s.st = .stBPay ∧ s.chan.readAnswer = some (.byte 0x10) ∧ s.pcnt = some n ∧ n.toNat ≤ 4 ∧
    s.accR = some 0xFB := by decide

theorem witness_PayloadCounterBeyondFourIsRefused : ∀ n ∈ [(5 : BitVec 3), 7],
    let s := paying n 0xFB 0x10
    s.Ready ∧ s.st = .stBPay ∧ s.chan.readAnswer = some (.byte 0x10) ∧ s.pcnt = some n ∧ 4 < n.toNat ∧
    s.accR = some 0xFB := by decide

/-- The frame of L1.4 on the wire, before a hunting block. -/
def hunting : State :=
  { inState .stHunt with
    chan := scriptedChannel Params.default [.badCk 1 [.char 'H', .char 'E', .char 'L', .char 'L', .char 'O']] }

theorem witness_NineReadsAssembleAFrame :
    hunting.Ready ∧ hunting.rst = [] ∧ hunting.st = .stHunt ∧
    hunting.chan.reads = [hunting.params.soh, 0x01, 0xFE, 0x48, 0x45, 0x4C, 0x4C, 0x4F, 0x75].map
      (fun b => some (.byte b)) ++ [] := by decide

theorem witness_BadHeaderIsRejectedFirst : ∀ q ∈ [(0x00 : Byte), 0x01, 0xFF],
    let s := judged q q hello 0x74 0x74 1
    s.Ready ∧ s.st = .stVerdict ∧ s.seqR = some q ∧ s.cmpR = some q ∧ s.accR = some 0x74 ∧
    s.chkR = some 0x74 ∧ q.toNat ≠ 255 - q.toNat := by decide

theorem witness_BadChecksumIsRejectedNext :
    let s := judged 0x01 0xFE hello 0x74 0x75 9
    s.Ready ∧ s.st = .stVerdict ∧ s.seqR = some 0x01 ∧ s.cmpR = some 0xFE ∧ s.accR = some 0x74 ∧
    s.chkR = some 0x75 ∧ (0xFE : Byte).toNat = 255 - (0x01 : Byte).toNat ∧ (0x74 : Byte) ≠ 0x75 := by decide

/-- The message just fills its capacity; the sequence number is the expected one for `exp = 1` and another for
`exp = 9`. -/
theorem witness_GoodFrameIsAccepted : ∀ exp ∈ [(1 : Byte), 9],
    let s := holding (judged 0x01 0xFE hello 0x74 0x74 exp) (some 7) [0x48, 0x49]
    s.Ready ∧ s.st = .stVerdict ∧ s.seqR = some 0x01 ∧ s.cmpR = some 0xFE ∧ s.accR = some 0x74 ∧
    s.chkR = some 0x74 ∧ (0xFE : Byte).toNat = 255 - (0x01 : Byte).toNat ∧
    s.payR = ⟨some 0x48, some 0x45, some 0x4C, some 0x4C, some 0x4F⟩ ∧
    s.msg.length + ([0x48, 0x45, 0x4C, 0x4C, 0x4F].filter (fun b => b != s.params.etx)).length ≤ 7 ∧
    s.expSeq = exp := by decide

theorem witness_OverflowUndoesTheWholeVerdict : ∀ exp ∈ [(1 : Byte), 9],
    let s := holding (judged 0x01 0xFE hello 0x74 0x74 exp) (some 7) [0x48, 0x49, 0x4C]
    s.Ready ∧ s.st = .stVerdict ∧ s.seqR = some 0x01 ∧ s.cmpR = some 0xFE ∧ s.accR = some 0x74 ∧
    s.chkR = some 0x74 ∧ (0xFE : Byte).toNat = 255 - (0x01 : Byte).toNat ∧
    s.payR = ⟨some 0x48, some 0x45, some 0x4C, some 0x4C, some 0x4F⟩ ∧ s.params.msgCapacity = some 7 ∧
    s.msg.length ≤ 7 ∧
    7 < s.msg.length + ([0x48, 0x45, 0x4C, 0x4C, 0x4F].filter (fun b => b != s.params.etx)).length ∧
    s.expSeq = exp := by decide

theorem witness_ResponseAdvancesTheSequence : ∀ pend : Bool,
    let s := responding 0x06 pend 0xFF
    s.Ready ∧ s.st = .stResp ∧ s.respR = some 0x06 ∧ s.chan.acceptsWrite = true ∧ s.incPend = pend := by decide

theorem witness_EndOfTransmissionIsAcknowledged :
    (inState .stEotAck).Ready ∧ (inState .stEotAck).st = .stEotAck ∧
    (inState .stEotAck).chan.acceptsWrite = true := by decide

theorem witness_CloseTerminatesTheSession :
    (inState .stClose).Ready ∧ (inState .stClose).st = .stClose ∧ (inState .stClose).chan.acceptsClose = true := by decide

theorem witness_DoneStaysDone : (inState .stDone).Ready ∧ (inState .stDone).st = .stDone := by decide

theorem witness_ReservedStateRaisesItsMark : ∀ low : BitVec 2,
    (inState (.stReserved low)).Ready ∧ (inState (.stReserved low)).st = .stReserved low := by decide

theorem witness_ResetRestoresEveryElement : (judged 0x01 0xFE hello 0x74 0x74 9).params.distinct := by decide

theorem witness_AssertedResetWinsInEveryState :
    let s := { inState .stResp with fault := some .badState, rst := [true, false] }
    s.params.distinct ∧ s.rst = true :: [false] := by decide

theorem witness_MarkedStateHasNoStep : ∀ m ∈ [FaultMark.msgOverflow, .badState, .unwrittenRead],
    let s := { inState .stHunt with fault := some m }
    s.params.distinct ∧ s.fault = some m ∧ s.rstNow = false ∧ encode s.params .huntEos = some 0x0500 := by decide

theorem witness_SilentChannelLeavesNoStep_open :
    let s := { inState .stOpen with chan := silence }
    s.Ready ∧ s.rstNow = false ∧ s.st = .stOpen ∧ s.chan.openAnswer = none := by decide

theorem witness_SilentChannelLeavesNoStep_read : ∀ st ∈ [StCode.stHunt, BodySt.st .seq, BodySt.st .chk],
    let s := { inState st with chan := silence }
    s.Ready ∧ s.rstNow = false ∧ s.st = st ∧ s.chan.readAnswer = none := by decide

theorem witness_SilentChannelLeavesNoStep_write : ∀ st ∈ [StCode.stHandshake, .stEotAck, .stResp],
    let s := { inState st with chan := silence, respR := some 0x06 }
    s.Ready ∧ s.rstNow = false ∧ s.st = st ∧ s.respR ≠ none ∧ s.chan.acceptsWrite = false := by decide

theorem witness_SilentChannelLeavesNoStep_close :
    let s := { inState .stClose with chan := silence }
    s.Ready ∧ s.rstNow = false ∧ s.st = .stClose ∧ s.chan.acceptsClose = false := by decide

theorem witness_UnwrittenReadRaisesItsMark_flags :
    let s := judged 0x01 0xFE hello 0x74 0x74 1
    ∀ t ∈ [{ s with seqR := none }, { s with cmpR := none }, { s with accR := none }, { s with chkR := none }],
      t.Ready ∧ t.rstNow = false ∧ t.st = .stVerdict ∧
      (t.seqR = none ∨ t.cmpR = none ∨ t.accR = none ∨ t.chkR = none) := by decide

theorem witness_UnwrittenReadRaisesItsMark_payload :
    let s := judged 0x01 0xFE { hello with p4 := none } 0x74 0x74 1
    s.Ready ∧ s.rstNow = false ∧ s.st = .stVerdict ∧ s.payR.read = none ∧
    s.flags = some { hdrOk := true, ckOk := true, seqEq := true } := by decide

theorem witness_UnwrittenReadRaisesItsMark_counter :
    let s := paying 0 0x00 0x48
    ∀ t ∈ [{ s with pcnt := none }, { s with accR := none }],
      t.Ready ∧ t.rstNow = false ∧ t.st = .stBPay ∧ t.chan.readAnswer = some (.byte 0x48) ∧
      (t.pcnt = none ∨ t.accR = none) := by decide

theorem witness_UnwrittenReadRaisesItsMark_response :
    let s := { inState .stResp with rst := [false, true] }
    s.Ready ∧ s.rstNow = false ∧ s.st = .stResp ∧ s.respR = none := by decide

theorem witness_EqualControlBytesAreRefused : ¬ ({ inState .stHunt with params := equalBytes }).params.distinct := by
  decide

theorem witness_StepRunsTheSelectedOperation :
    let s := reading .stHunt (.byte 0x55)
    s.Ready ∧ s.rstNow = false ∧ s.selector = .word 0x0455 ∧ decode s.params 0x0455 = some (.huntNoise 0x55) := by decide

theorem witness_OperationNeedsItsState :
    let s := reading .stHunt (.byte 0x01)
    encode s.params .huntSoh = some 0x0401 ∧ exec .huntSoh s = .next (runTo 1 s) := ⟨by decide, rfl⟩

theorem witness_PlacedWordIsSelected : State.reset.params.distinct := by decide

theorem witness_DecodeOfEncodeIsTheOperation :
    ∀ i ∈ [Instr.huntNoise 0x00, .huntNoise 0xFF, .vdRejHdr true true, .rxEos .chk, .rxPay 0xFF, .badState 3],
      Params.default.distinct ∧ i.wf Params.default = true ∧ (encode Params.default i).isSome = true := by decide

theorem witness_CodecFunctionsHaveTheirValues : (inState .stDone).params.distinct := by decide

theorem witness_ChecksumIgnoresOrder :
    let p : Payload := ⟨0x48, 0x45, 0x4C, 0x4C, 0x4F⟩
    let q : Payload := ⟨0x4F, 0x4C, 0x4C, 0x45, 0x48⟩
    p ≠ q ∧ p.toList.Perm q.toList := by decide

theorem witness_HeaderCheckIsTheComplement : hdrchk 0x00 0xFF = true ∧ hdrchk 0xFF 0x00 = true := by decide

theorem witness_PseudoOperationsAreGoodAndBadFrames :
    ∀ text ∈ [[], [0x48, 0x45, 0x4C, 0x4C, (0x4F : Byte)]], text.length ≤ 5 := by decide

theorem witness_ResultsAreReadOnlyAtTheEnd :
    (inState .stHunt).terminated = false ∧
    (let s := { inState .stDone with terminated := true, msg := [0x48, 0x49] }
     s.terminated = true ∧ s.msg[0]? = some 0x48 ∧ s.msg[1]? = some 0x49) := by decide

/-- R50: the host reads `msg` by positions 0 to `len(msg) - 1`; another position is refused (log 15). -/
theorem test_msgByte_beyond_the_end :
    statusRead { inState .stDone with terminated := true, msg := [0x48, 0x49] } (.msgByte 1) = .ok (.byte 0x49) ∧
    statusRead { inState .stDone with terminated := true, msg := [0x48, 0x49] } (.msgByte 2)
      = .error .noSuchMessageByte := ⟨rfl, rfl⟩

theorem witness_StartMeetsTheInvariant : Params.default.distinct := by decide

/-- The reset state before a scripted source meets the invariant of the registers. -/
theorem before_inv (script : List Token) : (before script).Inv := by
  constructor <;> simp [before, State.withScript, State.reset, causeFits, State.RegistersFit, Params.default]

theorem witness_StepKeepsTheInvariant : (before []).Inv ∧ step (before []) = .next (runTo 1 (before [])) :=
  ⟨before_inv [], rfl⟩

/-- Five steps of the session in which the sender says `EOT` at once (L2.5 V2) reach `DONE`. -/
def finished : State := runTo 5 (State.start Params.default (scriptedChannel Params.default [.one (.control .eot)]) [])

theorem finished_reached :
    Reaches (State.start Params.default (scriptedChannel Params.default [.one (.control .eot)]) []) finished :=
  reaches_runTo 5 .refl

theorem witness_ReachedStatesReadWrittenRegisters :
    Params.default.distinct ∧ ∃ c levels, Reaches (State.start Params.default c levels) finished :=
  ⟨by decide, _, _, finished_reached⟩

theorem witness_FinishedHistoriesHaveTheListedShapes :
    Params.default.distinct ∧ (∃ c levels, Reaches (State.start Params.default c levels) finished) ∧
    finished.st = .stDone := ⟨by decide, ⟨_, _, finished_reached⟩, by decide⟩

theorem witness_ChannelIsClosedExactlyOnce_opened :
    (∃ c levels, Reaches (State.start Params.default c levels) finished) ∧ finished.st = .stDone ∧
    finished.cause ≠ .openFail := ⟨⟨_, _, finished_reached⟩, by decide, by decide⟩

theorem witness_ChannelIsClosedExactlyOnce_refused :
    let start := State.start Params.default (scriptedChannel Params.default [.openFail]) []
    Reaches start (runTo 1 start) ∧ (runTo 1 start).st = .stDone ∧ (runTo 1 start).cause = .openFail :=
  ⟨reaches_runTo 1 .refl, by decide, by decide⟩

theorem witness_ChannelIsClosedExactlyOnce_before :
    let start := State.start Params.default (scriptedChannel Params.default []) []
    Reaches start (runTo 3 start) ∧ (runTo 3 start).st ≠ .stDone := ⟨reaches_runTo 3 .refl, by decide⟩

theorem witness_RecordsOnlyGrow :
    let s := holding (judged 0x01 0xFE hello 0x74 0x74 1) none [0x48]
    s.rstNow = false ∧ step s = .next (runTo 1 s) ∧ (runTo 1 s).msg.length = 6 := ⟨by decide, rfl, by decide⟩

theorem witness_StepFollowsTheTransitionGraph :
    let s := paying 4 0x25 0x4F
    s.rstNow = false ∧ step s = .next (runTo 1 s) ∧ (runTo 1 s).fault = none := ⟨by decide, rfl, by decide⟩

theorem witness_OnlyAnAcknowledgmentMovesTheSequence :
    let s := responding 0x06 true 0xFF
    exec .txResp s = .next (runTo 1 s) ∧ (runTo 1 s).expSeq ≠ s.expSeq := ⟨rfl, by decide⟩

theorem witness_WritersOfTheResult_message :
    let s := judged 0x01 0xFE hello 0x74 0x74 1
    exec .vdAcc s = .next (runTo 1 s) ∧ (runTo 1 s).msg ≠ s.msg := ⟨rfl, by decide⟩

theorem witness_WritersOfTheResult_terminated :
    let s := { inState .stClose with cause := .eot }
    exec .chClose s = .next (runTo 1 s) ∧ (runTo 1 s).terminated ≠ s.terminated := ⟨rfl, by decide⟩

theorem witness_WritersOfTheResult_cause :
    let s := inState .stEotAck
    exec .txEotAck s = .next (runTo 1 s) ∧ (runTo 1 s).cause ≠ s.cause := ⟨rfl, by decide⟩

theorem witness_OnlyControlBytesAreWritten :
    let s := runTo 1 (before [])
    s.Inv ∧ step s = .next (runTo 1 s) ∧ (runTo 1 s).history = s.history ++ [.wr 0x15] ∧
    Event.wr 0x15 ∈ [Event.wr 0x15] := by
  refine ⟨?_, rfl, by decide, by decide⟩
  constructor <;>
    simp [runTo, step, configured, stepSelected, before, State.withScript, State.reset, Params.default, State.rstNow,
      State.tick, State.selector, scriptedChannel, Channel.openAnswer, scriptOpens, decode_open, openData_bit, exec,
      execOpenOk, operate, State.selected, State.openDone, causeFits, State.RegistersFit, Event.outcome?]

theorem witness_SequenceNumberOnlyWarns_next :
    let s := judged 0x01 0xFE hello 0x74 0x74 1
    let t := judged 0x01 0xFE hello 0x74 0x74 9
    SameButSequence s t ∧ s ≠ t ∧ step s = .next (runTo 1 s) := ⟨⟨rfl, rfl, rfl, rfl⟩, by decide, rfl⟩

theorem witness_SequenceNumberOnlyWarns_fault :
    let s := { judged 0x01 0xFE hello 0x74 0x74 1 with fault := some .msgOverflow }
    SameButSequence s { s with expSeq := 9 } ∧ step s = .fault (.marked .msgOverflow) := ⟨⟨rfl, rfl, rfl, rfl⟩, rfl⟩

theorem witness_SequenceNumberOnlyWarns_refused :
    let s := paying 5 0x00 0x48
    SameButSequence s { s with expSeq := 9 } ∧ step s = .refused .noPayloadRegister := ⟨⟨rfl, rfl, rfl, rfl⟩, rfl⟩

theorem witness_StepKeepsTheHistoryShape :
    (before []).Inv ∧ (before []).HistoryFits ∧ step (before []) = .next (runTo 1 (before [])) :=
  ⟨before_inv [], rfl, rfl⟩

theorem witness_MachineRefinesTheReceiver :
    let s := reading .stHunt (.byte 0x04)
    s.Ready ∧ s.rst = [] ∧ s.st = .stHunt ∧ s.params.msgCapacity = none ∧
    s.chan.reads = [(0x04 : Byte)].map (fun b => some (.byte b)) ∧ s.chan.writes = [] ∧ s.chan.closes = [] ∧
    s.chan.beyond = .scripted := by decide

end Sys2Proof.Tests
end

/-! Proofs of the statements of 00_scope.md. -/

/-! ## The guards of every operation (00_scope.md R9, R13) -/

namespace Sys2Proof.Machine

/-- R9: every operation stands behind the check of the configuration. -/
theorem exec_eq_configured (i : Instr) (s : State) : ∃ k, exec i s = configured s k := by
  cases i <;> exact ⟨_, rfl⟩

theorem configured_of_not_distinct {s : State} (h : ¬ s.params.distinct) (k : Out) :
    configured s k = .refused .paramsNotDistinct := if_neg h

/-- R13: every operation with a selector word stands behind the check of the selection. -/
theorem exec_eq_operate {p : Params} {i : Instr} {w : Sel} (h : encode p i = some w) (s : State) :
    ∃ k, exec i s = operate i s k := by
  cases i with
  | cksum | hdrchk | ckchk | accum | etxfilt | reset => cases h
  | _ => exact ⟨_, rfl⟩

/-- Settles O26: `step` and every operation begin with the check of the configuration. -/
theorem equalControlBytesAreRefused : Obligations.EqualControlBytesAreRefused := by
  intro s hs
  refine ⟨configured_of_not_distinct hs _, fun i => ?_⟩
  obtain ⟨k, hk⟩ := exec_eq_configured i s
  rw [hk, configured_of_not_distinct hs]

/-- Settles O28: an operation with a selector word is guarded by `operate`, which answers a next state only where the
operation is selected. -/
theorem operationNeedsItsState : Obligations.OperationNeedsItsState := by
  intro i w s t hw ht
  obtain ⟨k, hk⟩ := exec_eq_operate hw s
  obtain ⟨_, _, hsel, _⟩ := operate_next (hk ▸ ht)
  exact hsel

/-! ## What a step appends to the records (R12, R32, R35, R39) -/

/-- From `s` to `t`, the events are appended to the history, their outcomes to the stream and the bytes to the message,
within the bounds of one step, and the parameters stay. -/
structure Appends (s t : State) (events : List Event) (bytes : List Byte) : Prop where
  history : t.history = s.history ++ events
  outcomes : t.outcomes = s.outcomes ++ events.filterMap Event.outcome?
  msg : t.msg = s.msg ++ bytes
  params : t.params = s.params
  events_le : events.length ≤ 2
  outcomes_le : (events.filterMap Event.outcome?).length ≤ 1
  bytes_le : bytes.length ≤ 5

/-- Some events and bytes are appended. -/
def RecordsGrow (s t : State) : Prop := ∃ events bytes, Appends s t events bytes

theorem etxfilt_length_le (etx : Byte) (p : Payload) : (etxfilt etx p).length ≤ 5 :=
  List.length_filter_le _ p.toList

@[simp] theorem outcome?_out (o : OutcomeCode) : (Event.out o).outcome? = some o := rfl

section
variable {s t : State}

/-- The step of a mark, and the stay in `DONE`: the records stay. -/
theorem recordsGrow_unchanged (hh : t.history = s.history := by rfl) (ho : t.outcomes = s.outcomes := by rfl)
    (hm : t.msg = s.msg := by rfl) (hp : t.params = s.params := by rfl) : RecordsGrow s t :=
  ⟨[], [], by simp [hh], by simp [ho], by simp [hm], hp, by simp, by simp, by simp⟩

/-- A transaction: one event that is no outcome. -/
theorem recordsGrow_transaction (e : Event) (he : e.outcome? = none) (hh : t.history = s.history ++ [e] := by rfl)
    (ho : t.outcomes = s.outcomes := by rfl) (hm : t.msg = s.msg := by rfl) (hp : t.params = s.params := by rfl) :
    RecordsGrow s t :=
  ⟨[e], [], hh, by simp [ho, he], by simp [hm], hp, by simp, by simp [he], by simp⟩

/-- A transaction that ends the session: its event, and then the outcome. -/
theorem recordsGrow_transaction_emit (e : Event) (o : OutcomeCode) (he : e.outcome? = none)
    (hh : t.history = s.history ++ [e] ++ [.out o] := by rfl) (ho : t.outcomes = s.outcomes ++ [o] := by rfl)
    (hm : t.msg = s.msg := by rfl) (hp : t.params = s.params := by rfl) : RecordsGrow s t :=
  ⟨[e, .out o], [], by simp [hh], by simp [ho, he], by simp [hm], hp, by simp,
    by simp [he], by simp⟩

/-- A verdict: its outcome, and the bytes that it appends to the message. -/
theorem recordsGrow_verdict (o : OutcomeCode) (bytes : List Byte) (hb : bytes.length ≤ 5)
    (hm : t.msg = s.msg ++ bytes) (hh : t.history = s.history ++ [.out o] := by rfl)
    (ho : t.outcomes = s.outcomes ++ [o] := by rfl)
    (hp : t.params = s.params := by rfl) : RecordsGrow s t :=
  ⟨[.out o], bytes, hh, ho, hm, hp, by simp, by simp, hb⟩

end

/-- Every way of a step but the reset only appends to the records. -/
theorem moves_recordsGrow {s t : State} (h : Moves s t) : RecordsGrow s t := by
  cases h with
  | openOk => exact recordsGrow_transaction (.opened true) rfl
  | openFail => exact recordsGrow_transaction_emit (.opened false) .openFail rfl
  | huntEot | huntSoh | huntNoise | rxSeq | rxCmp | rxPayMore | rxPayLast | rxChk =>
    exact recordsGrow_transaction (.rd _) rfl
  | huntEos | rxEos => exact recordsGrow_transaction_emit (.rd .eos) .ioFault rfl
  | hsNak | txResp => exact recordsGrow_transaction (.wr _) rfl
  | txEotAck => exact recordsGrow_transaction_emit (.wr _) .eot rfl
  | chClose => exact recordsGrow_transaction .closed rfl
  | rejHdr | rejCk => exact recordsGrow_verdict _ [] (by simp) (by simp)
  | acc f p m _ _ _ _ _ hm =>
    exact recordsGrow_verdict _ (etxfilt s.params.etx p) (etxfilt_length_le _ _) (msgAppendAll_some hm).1
  | accOverflow | accUnwritten | verdictUnwritten | rxPayUnwritten | txRespUnwritten | doneHalt | badState =>
    exact recordsGrow_unchanged

/-- Settles O45: a step that is not a reset is one of `Moves`, from a state whose records are those of `s`. -/
theorem recordsOnlyGrow : Obligations.RecordsOnlyGrow := by
  intro s t hr h
  obtain ⟨_, ⟨hreset, _⟩ | ⟨_, _, hmove⟩⟩ := step_moves h
  · simp [hr] at hreset
  · obtain ⟨events, bytes, happ⟩ := moves_recordsGrow hmove
    exact ⟨events, _, bytes, happ.history, happ.outcomes, happ.msg, happ.events_le, rfl, happ.outcomes_le,
      happ.bytes_le, happ.params⟩

end Sys2Proof.Machine

/-! ## The machine before a scripted channel refines the receiver (R3, R67, R120, R140) -/

namespace Sys2Proof.Machine

/-! ### Runs -/

theorem run_add (M : Host.Core) {n : Nat} (m : Nat) {s t : M.State} (h : M.run n s = .next t) :
    M.run (n + m) s = M.run m t := by
  induction n generalizing s with
  | zero => cases h; rw [Nat.zero_add]
  | succ n ih =>
    rw [Nat.succ_add, Host.Core.run]
    rw [Host.Core.run] at h
    cases hs : M.step s with
    | next u => rw [hs] at h; exact ih h
    | fault r => rw [hs] at h; cases h
    | refused r => rw [hs] at h; cases h

/-- A state that is reached is the end of a run of the host's interface. -/
theorem Reaches.run {s t : State} (h : Reaches s t) : ∃ n, Host.Core.run core n s = .next t := by
  induction h with
  | refl => exact ⟨0, rfl⟩
  | @step t u _ hstep ih =>
    obtain ⟨n, hn⟩ := ih
    have hone : Host.Core.run core 1 t = .next u := by
      simp [Host.Core.run, show core.step t = .next u from hstep]
    exact ⟨n + 1, (run_add core 1 hn).trans hone⟩

theorem Reaches.single {s t : State} (h : Machine.step s = .next t) : Reaches s t := .step .refl h

theorem Reaches.trans {s t u : State} (h : Reaches s t) (h' : Reaches t u) : Reaches s u := by
  induction h' with
  | refl => exact h
  | step _ hstep ih => exact .step ih hstep

/-! ### The scripted channel (R67) -/

/-- A running state, without a bound on the message, before a scripted channel that gives `bytes` and then fails. -/
structure State.Scripted (s : State) (p : Params) (bytes : List Byte) : Prop where
  params : s.params = p
  distinct : p.distinct
  unbounded : p.msgCapacity = none
  unmarked : s.fault = none
  noReset : s.rst = []
  reads : s.chan.reads = bytes.map (fun b => some (.byte b))
  writes : s.chan.writes = []
  closes : s.chan.closes = []
  source : s.chan.beyond = .scripted

namespace State.Scripted

variable {s t : State} {p : Params} {b : Byte} {bytes : List Byte}

/-- What `Scripted` speaks of is the parameters, the mark, the coming resets and the channel. -/
theorem of_eq (h : s.Scripted p bytes) (hp : t.params = s.params := by rfl) (hf : t.fault = s.fault := by rfl)
    (hr : t.rst = s.rst := by rfl) (hc : t.chan = s.chan := by rfl) : t.Scripted p bytes where
  params := hp.trans h.params
  distinct := h.distinct
  unbounded := h.unbounded
  unmarked := hf.trans h.unmarked
  noReset := hr.trans h.noReset
  reads := hc ▸ h.reads
  writes := hc ▸ h.writes
  closes := hc ▸ h.closes
  source := hc ▸ h.source

theorem step_of_moves (h : s.Scripted p bytes) (hm : Moves s t) : step s = .next t :=
  Machine.step_of_moves (h.params ▸ h.distinct) h.unmarked (by simp [State.rstNow, h.noReset])
    ((tick_of_nil h.noReset).symm ▸ hm)

theorem readAnswer_byte (h : s.Scripted p (b :: bytes)) : s.chan.readAnswer = some (.byte b) := by
  simp [Channel.readAnswer, h.reads]

theorem readAnswer_eos (h : s.Scripted p []) : s.chan.readAnswer = some .eos := by
  simp [Channel.readAnswer, h.reads, h.source]

theorem acceptsWrite (h : s.Scripted p bytes) : s.chan.acceptsWrite = true := by
  simp [Channel.acceptsWrite, h.writes, h.source]

theorem acceptsClose (h : s.Scripted p bytes) : s.chan.acceptsClose = true := by
  simp [Channel.acceptsClose, h.closes, h.source]

/-- A byte read is used up. -/
theorem readDone (h : s.Scripted p (b :: bytes)) : (s.readDone (.byte b)).Scripted p bytes := by
  have hc : (s.readDone (.byte b)).chan = { s.chan with reads := bytes.map (fun b => some (.byte b)) } := by
    simp [Channel.afterRead, h.reads]
  exact ⟨h.params, h.distinct, h.unbounded, h.unmarked, h.noReset, by rw [hc], hc ▸ h.writes, hc ▸ h.closes,
    hc ▸ h.source⟩

/-- The failure of the channel is not used up. -/
theorem fatal (h : s.Scripted p []) : s.fatal.Scripted p [] :=
  h.of_eq (hc := by simp [Channel.afterRead, Channel.drawn, h.reads, h.source])

/-- A write leaves the scripted channel as it is. -/
theorem writeDone (h : s.Scripted p bytes) (r : Byte) : (s.writeDone r).Scripted p bytes :=
  h.of_eq (hc := by simp [Channel.afterWrite, Channel.drawn, h.writes, h.source])

end State.Scripted

/-! ### What the steps do to the session -/

/-- `Emit` writes no byte. -/
@[simp] theorem filterMap_written?_out (o : OutcomeCode) : [Event.out o].filterMap Event.written? = [] := rfl

/-- The session `r`, ended by a failure of the channel (R179). -/
def Session.failed (r : Session) : Session := { r with outcomes := r.outcomes ++ [.ioFault], cause := .ioFault }

/-- The session `r`, ended by `EOT` (R149). -/
def Session.finished (p : Params) (r : Session) : Session :=
  { r with sent := r.sent ++ [p.ack], outcomes := r.outcomes ++ [.eot], cause := .eot }

theorem session_readDone (s : State) (a : ReadAnswer) : (s.readDone a).session = s.session := by
  simp [State.session, Event.written?]

theorem session_fatal (s : State) : s.fatal.session = s.session.failed := by
  simp [State.session, Session.failed, Event.written?]

theorem session_eotAck (s : State) :
    ({ (s.writeDone s.params.ack).emit .eot with cause := .eot, st := .stClose } : State).session =
      s.session.finished s.params := by
  simp [State.session, Session.finished, Event.written?]

theorem session_closeDone (s : State) : s.closeDone.session = s.session := by
  simp [State.session, Event.written?]

/-! ### The receiver's function, case by case (R120, R140) -/

section
variable {p : Params}

theorem receive_nil (p : Params) (r : Session) : receive p [] r = r.failed := by
  rw [receive]; rfl

theorem receive_eot (p : Params) (rest : List Byte) (r : Session) : receive p (p.eot :: rest) r = r.finished p := by
  rw [receive.eq_def]
  exact if_pos rfl

theorem receive_frame (hne : p.soh ≠ p.eot) (q c b0 b1 b2 b3 b4 k : Byte) (rest : List Byte) (r : Session) :
    receive p (p.soh :: q :: c :: b0 :: b1 :: b2 :: b3 :: b4 :: k :: rest) r =
      receive p rest (judgeFrame p { seq := q, cmp := c, pay := ⟨b0, b1, b2, b3, b4⟩, chk := k } r) := by
  rw [receive, if_neg hne, if_pos rfl]

theorem receive_noise {b : Byte} (heot : b ≠ p.eot) (hsoh : b ≠ p.soh) (rest : List Byte) (r : Session) :
    receive p (b :: rest) r = receive p rest r := by
  rw [receive.eq_def]
  simp only [if_neg heot, if_neg hsoh]

/-- The bytes do not begin with a frame's body. -/
def NoBody (bytes : List Byte) : Prop :=
  ∀ q c b0 b1 b2 b3 b4 k rest, bytes = q :: c :: b0 :: b1 :: b2 :: b3 :: b4 :: k :: rest → False

theorem NoBody.length_lt {bytes : List Byte} (h : NoBody bytes) : bytes.length < 8 := by
  match bytes, h with
  | q :: c :: b0 :: b1 :: b2 :: b3 :: b4 :: k :: rest, h => exact (h _ _ _ _ _ _ _ _ _ rfl).elim
  | [], _ | [_], _ | [_, _], _ | [_, _, _], _ | [_, _, _, _], _ | [_, _, _, _, _], _ | [_, _, _, _, _, _], _
  | [_, _, _, _, _, _, _], _ => simp

theorem receive_short {bytes : List Byte} (hne : p.soh ≠ p.eot) (h : NoBody bytes) (r : Session) :
    receive p (p.soh :: bytes) r = r.failed := by
  rw [receive.eq_3 _ _ _ _ h, if_neg hne, if_pos rfl]; rfl

end

/-! ### The end of the session (R149, R150, R179) -/

/-- The machine reaches the end of a session that came to `r`. -/
def State.Ends (s : State) (r : Session) : Prop :=
  ∃ t, Reaches s t ∧ t.Ended ∧ t.terminated = true ∧ t.session = r

theorem State.Ends.of_reaches {s t : State} {r : Session} (h : Reaches s t) (ht : t.Ends r) : s.Ends r := by
  obtain ⟨u, hu, hend⟩ := ht
  exact ⟨u, h.trans hu, hend⟩

section
variable {s : State} {p : Params} {bytes : List Byte}

/-- R150: from `CLOSE` the session ends with what it has come to. -/
theorem ends_of_close (h : s.Scripted p bytes) (hst : s.st = .stClose) : s.Ends s.session :=
  ⟨_, .single (h.step_of_moves (.chClose hst h.acceptsClose)), ⟨rfl, h.unmarked⟩, rfl, session_closeDone s⟩

/-- R179: the fatal-error entry leads to the end. -/
theorem ends_of_fatal (h : s.Scripted p []) (hm : Moves s s.fatal) : s.Ends s.session.failed :=
  session_fatal s ▸ .of_reaches (.single (h.step_of_moves hm)) (ends_of_close h.fatal rfl)

/-- R149: the end of transmission is acknowledged and leads to the end. -/
theorem ends_of_eotAck (h : s.Scripted p bytes) (hst : s.st = .stEotAck) : s.Ends (s.session.finished p) := by
  have hstep := h.step_of_moves (.txEotAck hst h.acceptsWrite)
  have hsession := session_eotAck s
  rw [h.params] at hstep hsession
  exact hsession ▸ .of_reaches (.single hstep) (ends_of_close (h.writeDone p.ack).of_eq rfl)

end

/-! ### The assembly of a frame (R120, R125 to R128, R130) -/

/-- The frame registers after the body bytes given (R78): the sequence byte, its complement, the payload bytes with
their sum, the checksum. -/
inductive Assembling (s : State) : List Byte → Prop
  | seq : s.st = .stBSeq → s.accR = some 0 → Assembling s []
  | cmp (q : Byte) : s.st = .stBCmp → s.seqR = some q → s.accR = some 0 → Assembling s [q]
  | pay (q c : Byte) (n : BitVec 3) (bs : List Byte) : s.st = .stBPay → s.seqR = some q → s.cmpR = some c →
      s.pcnt = some n → n.toNat ≤ 4 → bs.length = n.toNat → s.payR.toList.take n.toNat = bs.map some →
      s.accR = some (byteSum bs) → Assembling s (q :: c :: bs)
  | chk (q c : Byte) (bs : List Byte) : s.st = .stBChk → s.seqR = some q → s.cmpR = some c →
      bs.length = 5 → s.payR.toList = bs.map some → s.accR = some (byteSum bs) → Assembling s (q :: c :: bs)
  | verdict (q c : Byte) (bs : List Byte) (k : Byte) : s.st = .stVerdict → s.seqR = some q → s.cmpR = some c →
      bs.length = 5 → s.payR.toList = bs.map some → s.accR = some (byteSum bs) → s.chkR = some k →
      Assembling s (q :: c :: bs ++ [k])

theorem byteSum_append (bs : List Byte) (b : Byte) : byteSum (bs ++ [b]) = accum (byteSum bs) b := by
  simp [byteSum, accum]

theorem byteSum_payload (p : Payload) : byteSum p.toList = cksum p := by
  simp [byteSum, cksum, Payload.toList, Nat.add_assoc]

/-- The registers that hold a payload's bytes read as that payload. -/
theorem payRegs_read_of_toList {r : PayRegs} {p : Payload} (h : r.toList = p.toList.map some) : r.read = some p := by
  obtain ⟨p0, p1, p2, p3, p4⟩ := r
  simp only [PayRegs.toList, Payload.toList, List.map_cons, List.map_nil, List.cons.injEq] at h
  obtain ⟨rfl, rfl, rfl, rfl, rfl, _⟩ := h
  rfl

/-- Storing the next payload byte: one more register holds its byte. -/
theorem payRegs_write_take {r r' : PayRegs} {n : BitVec 3} {b : Byte} {bs : List Byte} (hw : r.write n b = some r')
    (hr : r.toList.take n.toNat = bs.map some) : r'.toList.take (n.toNat + 1) = (bs ++ [b]).map some := by
  obtain ⟨hn, hset⟩ := payRegs_write hw
  have hlen : n.toNat < r.toList.length := by simp [PayRegs.toList]; omega
  rw [hset, ← List.take_concat_get' _ _ (by simpa using hlen), List.take_set_of_le (le_refl _), hr]
  simp

section
variable {s : State} {p : Params} {bytes : List Byte}

/-- R125 to R128: a byte of the body is stored, and the session does not change. -/
theorem assembling_step {body : List Byte} {b : Byte} (h : s.Scripted p (b :: bytes)) (ha : Assembling s body)
    (hlen : body.length < 8) :
    ∃ t, step s = .next t ∧ t.Scripted p bytes ∧ Assembling t (body ++ [b]) ∧ t.session = s.session := by
  have hb := h.readAnswer_byte
  cases ha with
  | seq hst hacc =>
    exact ⟨_, h.step_of_moves (.rxSeq b hst hb), h.readDone.of_eq, .cmp b rfl rfl hacc, session_readDone s _⟩
  | cmp q hst hq hacc =>
    exact ⟨_, h.step_of_moves (.rxCmp b hst hb), h.readDone.of_eq,
      .pay q b 0 [] rfl hq rfl rfl (by simp) rfl rfl hacc, session_readDone s _⟩
  | pay q c n bs hst hq hc hn hle hbs hpay hacc =>
    obtain ⟨r, hw⟩ := payRegs_write_of (r := s.payR) (b := b) hle
    have htake := payRegs_write_take hw hpay
    have hsum : some (accum (byteSum bs) b) = some (byteSum (bs ++ [b])) := by rw [byteSum_append]
    by_cases h4 : n = 4
    · subst h4
      exact ⟨_, h.step_of_moves (.rxPayLast b _ r hst hb hn hacc hw), h.readDone.of_eq,
        .chk q c (bs ++ [b]) rfl hq hc (by simpa using hbs) htake hsum, session_readDone s _⟩
    · have hsucc : (n + 1).toNat = n.toNat + 1 := by bv_omega
      refine ⟨_, h.step_of_moves (.rxPayMore b n _ r hst hb hn hacc hw h4), h.readDone.of_eq,
        .pay q c (n + 1) (bs ++ [b]) hst hq hc rfl ?_ ?_ ?_ hsum, session_readDone s _⟩
      · bv_omega
      · rw [hsucc, List.length_append, hbs]; rfl
      · rw [hsucc]; exact htake
  | chk q c bs hst hq hc hbs hpay hacc =>
    exact ⟨_, h.step_of_moves (.rxChk b hst hb), h.readDone.of_eq, .verdict q c bs b rfl hq hc hbs hpay hacc rfl,
      session_readDone s _⟩
  | verdict q c bs k hst hq hc hbs => simp [hbs] at hlen

/-- R130: the bytes of a body are read one after the other. -/
theorem assembling_reaches {rest : List Byte} (body : List Byte) (more : List Byte) (h : s.Scripted p (more ++ rest))
    (ha : Assembling s body) (hlen : body.length + more.length ≤ 8) :
    ∃ t, Reaches s t ∧ t.Scripted p rest ∧ Assembling t (body ++ more) ∧ t.session = s.session := by
  induction more generalizing s body with
  | nil => exact ⟨s, .refl, h, by simpa using ha, rfl⟩
  | cons b more ih =>
    rw [List.length_cons] at hlen
    obtain ⟨t, hstep, ht, hbody, hsession⟩ := assembling_step h ha (by omega)
    obtain ⟨u, hu, hscripted, hall, hsession'⟩ := ih (body ++ [b]) ht hbody (by simp; omega)
    exact ⟨u, (Reaches.single hstep).trans hu, hscripted, by simpa using hall, hsession'.trans hsession⟩

/-- R129: a failure of the channel inside the body is fatal. -/
theorem assembling_ends {body : List Byte} (h : s.Scripted p []) (ha : Assembling s body) (hlen : body.length < 8) :
    s.Ends s.session.failed := by
  refine ends_of_fatal h ?_
  cases ha with
  | seq hst => exact .rxEos .seq hst h.readAnswer_eos
  | cmp _ hst => exact .rxEos .cmp hst h.readAnswer_eos
  | pay _ _ _ _ hst => exact .rxEos .pay hst h.readAnswer_eos
  | chk _ _ _ hst => exact .rxEos .chk hst h.readAnswer_eos
  | verdict _ _ _ _ _ _ _ hbs => simp [hbs] at hlen

/-- The registers of `VERDICT` hold the frame `f` (R36, R78). -/
structure Received (s : State) (f : Frame) : Prop where
  st : s.st = .stVerdict
  flags : s.flags = some (flagsOf f.seq f.cmp (cksum f.pay) f.chk s.expSeq)
  pay : s.payR.read = some f.pay

/-- A body of eight bytes is a received frame. -/
theorem Assembling.received {q c b0 b1 b2 b3 b4 k : Byte} (ha : Assembling s [q, c, b0, b1, b2, b3, b4, k]) :
    Received s { seq := q, cmp := c, pay := ⟨b0, b1, b2, b3, b4⟩, chk := k } := by
  generalize hbody : [q, c, b0, b1, b2, b3, b4, k] = body at ha
  cases ha with
  | seq | cmp => simp at hbody
  | pay q' c' n bs _ _ _ _ hle hbs =>
    have := congrArg List.length hbody
    simp only [List.length_cons, List.length_nil] at this
    omega
  | chk q' c' bs _ _ _ hbs =>
    have := congrArg List.length hbody
    simp [hbs] at this
  | verdict q' c' bs k' hst hq hc hbs hpay hacc hk =>
    have hsplit : q :: c :: [b0, b1, b2, b3, b4] ++ [k] = q' :: c' :: bs ++ [k'] := hbody
    obtain ⟨hfront, hlast⟩ := List.append_inj' hsplit rfl
    cases hfront
    cases hlast
    exact ⟨hst, by simp [State.flags, hq, hc, hacc, hk, ← byteSum_payload, Payload.toList],
      payRegs_read_of_toList hpay⟩

/-! ### The verdict and the response (R144 to R148) -/

/-- The session goes on in `HUNT` before `bytes`, having come to `r`. -/
def State.Resumes (s : State) (p : Params) (bytes : List Byte) (r : Session) : Prop :=
  ∃ t, Reaches s t ∧ t.Scripted p bytes ∧ t.st = .stHunt ∧ t.session = r

/-- R148: after the verdict `v` the response is written, the sequence number advances if the increment is pending, and
the hunt resumes. -/
theorem resumes_of_verdict {v : State} {r : Byte} (h : s.Scripted p bytes) (hm : Moves s v)
    (hv : v.Scripted p bytes) (hst : v.st = .stResp) (hr : v.respR = some r) :
    s.Resumes p bytes { v.session with
      sent := v.session.sent ++ [r], expSeq := if v.incPend then v.expSeq + 1 else v.expSeq } := by
  have hresp := hv.step_of_moves (.txResp r hst hr hv.acceptsWrite)
  refine ⟨_, (Reaches.single (h.step_of_moves hm)).trans (.single hresp), (hv.writeDone r).of_eq, rfl, ?_⟩
  simp [State.session, Event.written?, seqNext_eq_add]

/-- R144, R145: a rejection answers `NAK` and leaves the message and the sequence number. -/
theorem resumes_of_reject {o : OutcomeCode} (h : s.Scripted p bytes) (hm : Moves s (s.reject o)) :
    s.Resumes p bytes { s.session with
      sent := s.session.sent ++ [p.nak], outcomes := s.session.outcomes ++ [o] } := by
  have hresume := resumes_of_verdict (r := p.nak) h hm h.of_eq rfl (by simp [h.params])
  simpa [State.session] using hresume

/-- R146, R147: an acceptance appends the filtered payload, answers `ACK` and advances the sequence number. -/
theorem resumes_of_accept {f : Frame} (h : s.Scripted p bytes) (hf : Received s f)
    (hhdr : hdrchk f.seq f.cmp = true) (hck : cksum f.pay = f.chk) :
    s.Resumes p bytes { s.session with
      msg := s.session.msg ++ f.pay.toList.filter (fun b => b != p.etx)
      sent := s.session.sent ++ [p.ack]
      outcomes := s.session.outcomes ++ [if f.seq = s.session.expSeq then .accept else .acceptSeqWarn]
      expSeq := s.session.expSeq + 1 } := by
  have happend : msgAppendAll s.params.msgCapacity s.msg (etxfilt s.params.etx f.pay)
      = some (s.msg ++ etxfilt s.params.etx f.pay) :=
    msgAppendAll_of_fits (by simp [h.params, h.unbounded])
  have hmove := Moves.acc _ _ _ hf.st hf.flags hhdr (by simp [flagsOf, hck]) hf.pay happend
  have hresume := resumes_of_verdict (r := p.ack) h hmove h.of_eq rfl (by simp [h.params])
  have houtcome : (if (f.seq == s.expSeq) = true then OutcomeCode.accept else .acceptSeqWarn)
      = if f.seq = s.session.expSeq then .accept else .acceptSeqWarn := if_congr beq_iff_eq rfl rfl
  rw [← houtcome]
  simpa [State.session, flagsOf, etxfilt, h.params] using hresume

theorem cksum_eq_iff (q : Payload) (k : Byte) :
    cksum q = k ↔ (q.toList.map BitVec.toNat).sum % 256 = k.toNat := by
  rw [← BitVec.toNat_inj, ← byteSum_payload, byteSum, BitVec.toNat_ofNat, Nat.mod_mod]

/-- A received frame is judged as the receiver's function judges it: the header first, then the checksum. -/
theorem received_resumes {f : Frame} (h : s.Scripted p bytes) (hf : Received s f) :
    s.Resumes p bytes (judgeFrame p f s.session) := by
  by_cases hhdr : f.cmp.toNat = 255 - f.seq.toNat
  · have hok := (hdrchk_iff f.seq f.cmp).mpr hhdr
    by_cases hck : (f.pay.toList.map BitVec.toNat).sum % 256 = f.chk.toNat
    · rw [judgeFrame, if_neg (not_not.mpr hhdr), if_neg (not_not.mpr hck)]
      exact resumes_of_accept h hf hok ((cksum_eq_iff _ _).mpr hck)
    · rw [judgeFrame, if_neg (not_not.mpr hhdr), if_pos hck]
      have hbad : cksum f.pay ≠ f.chk := (cksum_eq_iff _ _).not.mpr hck
      exact resumes_of_reject h (.rejCk _ hf.st hf.flags hok (by simpa [flagsOf] using hbad))
  · rw [judgeFrame, if_pos hhdr]
    have hbad := (hdrchk_iff f.seq f.cmp).not.mpr hhdr
    exact resumes_of_reject h (.rejHdr _ hf.st hf.flags (by simpa [flagsOf] using hbad))

/-! ### The hunt (R120 to R124) -/

/-- R123: `SOH` starts a frame. -/
theorem soh_starts_frame (h : s.Scripted p (p.soh :: bytes)) (hst : s.st = .stHunt) :
    ∃ t, step s = .next t ∧ t.Scripted p bytes ∧ Assembling t [] ∧ t.session = s.session := by
  have hmove := Moves.huntSoh hst (h.params.symm ▸ h.readAnswer_byte)
  rw [h.params] at hmove
  exact ⟨_, h.step_of_moves hmove, h.readDone.of_eq, .seq rfl rfl, session_readDone s _⟩

/-- `SOH` and eight more bytes are a frame, which is judged. -/
theorem frame_resumes {q c b0 b1 b2 b3 b4 k : Byte}
    (h : s.Scripted p (p.soh :: q :: c :: b0 :: b1 :: b2 :: b3 :: b4 :: k :: bytes)) (hst : s.st = .stHunt) :
    s.Resumes p bytes
      (judgeFrame p { seq := q, cmp := c, pay := ⟨b0, b1, b2, b3, b4⟩, chk := k } s.session) := by
  obtain ⟨t, hstep, ht, hstart, hsession⟩ := soh_starts_frame h hst
  obtain ⟨u, hu, hscripted, hbody, hsession'⟩ :=
    assembling_reaches (rest := bytes) [] [q, c, b0, b1, b2, b3, b4, k] ht hstart (by simp)
  obtain ⟨v, hv, hresumed⟩ := received_resumes hscripted hbody.received
  rw [hsession', hsession] at hresumed
  exact ⟨v, (Reaches.single hstep).trans (hu.trans hv), hresumed⟩

/-- `SOH` and fewer than eight more bytes before the channel fails are fatal. -/
theorem short_frame_ends (h : s.Scripted p (p.soh :: bytes)) (hst : s.st = .stHunt) (hlen : bytes.length < 8) :
    s.Ends s.session.failed := by
  obtain ⟨t, hstep, ht, hstart, hsession⟩ := soh_starts_frame h hst
  obtain ⟨u, hu, hscripted, hbody, hsession'⟩ :=
    assembling_reaches (rest := []) [] bytes (by simpa using ht) hstart (by simp; omega)
  have hend := assembling_ends hscripted hbody hlen
  rw [hsession', hsession] at hend
  exact .of_reaches ((Reaches.single hstep).trans hu) hend

/-- R122: `EOT` ends the session. -/
theorem eot_ends (h : s.Scripted p (p.eot :: bytes)) (hst : s.st = .stHunt) : s.Ends (s.session.finished p) := by
  have hmove := Moves.huntEot hst (h.params.symm ▸ h.readAnswer_byte)
  rw [h.params] at hmove
  exact session_readDone s (.byte p.eot) ▸
    .of_reaches (.single (h.step_of_moves hmove)) (ends_of_eotAck h.readDone.of_eq rfl)

/-- R124: noise is discarded. -/
theorem noise_resumes {b : Byte} (h : s.Scripted p (b :: bytes)) (hst : s.st = .stHunt) (heot : b ≠ p.eot)
    (hsoh : b ≠ p.soh) : s.Resumes p bytes s.session := by
  have hmove := Moves.huntNoise b hst h.readAnswer_byte (h.params.symm ▸ heot) (h.params.symm ▸ hsoh)
  exact ⟨_, .single (h.step_of_moves hmove), h.readDone, hst, session_readDone s _⟩

theorem State.Resumes.ends {r r' : Session} (h : s.Resumes p bytes r)
    (hend : ∀ {t : State}, t.Scripted p bytes → t.st = .stHunt → t.session = r → t.Ends r') : s.Ends r' := by
  obtain ⟨t, hreach, ht, hst, hsession⟩ := h
  exact .of_reaches hreach (hend ht hst hsession)

/-- From `HUNT`, the machine comes to what the receiver's function of the bytes gives, by the recursion of that
function. -/
theorem hunt_ends {r : Session} (h : s.Scripted p bytes) (hst : s.st = .stHunt) (hr : s.session = r) :
    s.Ends (receive p bytes r) := by
  induction bytes, r using receive.induct (p := p) generalizing s with
  | case1 r =>
    subst hr
    rw [receive_nil]
    exact ends_of_fatal h (.huntEos hst h.readAnswer_eos)
  | case2 rest r =>
    subst hr
    rw [receive_eot]
    exact eot_ends h hst
  | case3 r q c b0 b1 b2 b3 b4 k rest hne ih =>
    subst hr
    rw [receive_frame hne]
    exact (frame_resumes h hst).ends ih
  | case4 rest r hshort hne =>
    subst hr
    rw [receive_short hne hshort]
    exact short_frame_ends h hst (NoBody.length_lt hshort)
  | case5 b rest r heot hsoh ih =>
    subst hr
    rw [receive_noise heot hsoh]
    exact (noise_resumes h hst heot hsoh).ends ih

end

/-- Settles O54: the states of the statement are `Scripted`, and `hunt_ends` follows the recursion of `receive`. -/
theorem machineRefinesTheReceiver : Obligations.MachineRefinesTheReceiver := by
  intro s bytes hready hrst hst hcap hreads hwrites hcloses hsource
  have hscripted : s.Scripted s.params bytes :=
    ⟨rfl, hready.1, hcap, hready.2, hrst, hreads, hwrites, hcloses, hsource⟩
  obtain ⟨t, hreach, hend⟩ := hunt_ends hscripted hst rfl
  obtain ⟨n, hn⟩ := hreach.run
  exact ⟨n, t, hn, hend⟩

end Sys2Proof.Machine

/-! Proofs of the statements of 10_state.md. -/

/-! ## Everything an operation can do (R13, R37, R105, R190) -/

namespace Sys2Proof.Machine

/-- Every way an operation completes: the reset action, a codec function at its port, or a move of the state that selects
it. -/
theorem exec_next {i : Instr} {s t : State} (h : exec i s = .next t) :
    (i = .reset ∧ t = s.resetAll) ∨ (∃ r, t = s.showCodec r) ∨ (s.selected = some i ∧ Moves s t) := by
  have move {w : Sel} (hw : encode s.params i = some w) : s.selected = some i ∧ Moves s t := by
    obtain ⟨k, hk⟩ := exec_eq_operate hw s
    obtain ⟨_, hf, hs, _⟩ := operate_next (hk ▸ h)
    exact ⟨hs, (stepSelected_moves ((stepSelected_of hf hs).trans h)).2⟩
  cases i with
  | reset =>
    cases (configured_next h).2
    exact .inl ⟨rfl, rfl⟩
  | cksum | hdrchk | ckchk | accum | etxfilt =>
    cases (configured_next h).2
    exact .inr (.inl ⟨_, rfl⟩)
  | _ => exact .inr (.inr (move rfl))

/-! ## The writers of the sequence number and of the result (R23, R32 to R34, R154) -/

section
variable {s t : State} {i : Instr}

/-- R23: `TX_RESP` alone writes the sequence number. -/
theorem moves_expSeq_writer (h : Moves s t) (hi : s.selected = some i) (hne : t.expSeq ≠ s.expSeq) :
    i = .txResp ∧ s.incPend = true ∧ t.expSeq = s.expSeq + 1 := by
  cases h with
  | txResp r hst =>
    have hpend : s.incPend = true := by
      by_contra hpend
      exact hne (if_neg hpend)
    exact ⟨Option.some.inj (hi.symm.trans (selected_resp hst)), hpend, (if_pos hpend).trans (seqNext_eq_add _)⟩
  | _ => exact absurd rfl hne

/-- R32: the two acceptances alone write the message. -/
theorem moves_msg_writer (h : Moves s t) (hi : s.selected = some i) (hne : t.msg ≠ s.msg) :
    i = .vdAcc ∨ i = .vdAccWarn := by
  cases h with
  | acc f p m hst hf hhdr hck =>
    rw [selected_verdict hst, hf] at hi
    cases hseq : f.seqEq <;> simp [verdictOp, hhdr, hck, hseq] at hi <;> simp [← hi]
  | _ => exact absurd rfl hne

/-- R33: `CH_CLOSE` and `OPEN_FAIL` alone set the flag `terminated`. -/
theorem moves_terminated_writer (h : Moves s t) (hi : s.selected = some i) (hne : t.terminated ≠ s.terminated) :
    i = .chClose ∨ i = .openFail := by
  cases h with
  | chClose hst => exact .inl (Option.some.inj (hi.symm.trans (selected_close hst)))
  | openFail hst ha =>
    rw [selected_open hst, ha] at hi
    exact .inr (Option.some.inj hi.symm)
  | _ => exact absurd rfl hne

/-- R34: `TX_EOT_ACK`, the two operations of `EOS` and `OPEN_FAIL` alone write the cause. -/
theorem moves_cause_writer (h : Moves s t) (hi : s.selected = some i) (hne : t.cause ≠ s.cause) :
    i = .txEotAck ∨ i = .huntEos ∨ (∃ body, i = .rxEos body) ∨ i = .openFail := by
  cases h with
  | txEotAck hst => exact .inl (Option.some.inj (hi.symm.trans (selected_eotAck hst)))
  | huntEos hst ha =>
    rw [selected_hunt hst, ha] at hi
    exact .inr (.inl (Option.some.inj hi.symm))
  | rxEos body hst ha =>
    rw [selected_body hst, ha] at hi
    exact .inr (.inr (.inl ⟨body, Option.some.inj hi.symm⟩))
  | openFail hst ha =>
    rw [selected_open hst, ha] at hi
    exact .inr (.inr (.inr (Option.some.inj hi.symm)))
  | _ => exact absurd rfl hne

end

/-- Settles O47: a codec function writes its port alone, and of the moves only that of `TX_RESP` writes the number. -/
theorem onlyAnAcknowledgmentMovesTheSequence : Obligations.OnlyAnAcknowledgmentMovesTheSequence := by
  intro i s t h hne
  obtain ⟨hi, _⟩ | ⟨r, rfl⟩ | ⟨hi, hmove⟩ := exec_next h
  · exact .inl hi
  · exact absurd rfl hne
  · exact .inr (moves_expSeq_writer hmove hi hne)

/-- Settles O48: a codec function writes its port alone, and the moves that write an element are those of the operations
named. -/
theorem writersOfTheResult : Obligations.WritersOfTheResult := by
  intro i s t h
  obtain ⟨hi, _⟩ | ⟨r, rfl⟩ | ⟨hi, hmove⟩ := exec_next h
  · simp [hi]
  · simp
  · refine ⟨fun hne => ?_, fun hne => ?_, fun hne => ?_⟩
    · exact (moves_msg_writer hmove hi hne).imp_right .inl
    · exact (moves_terminated_writer hmove hi hne).imp_right .inl
    · exact (moves_cause_writer hmove hi hne).imp_right (.imp_right (.imp_right .inl))

/-! ## The marked state, the reset and the counter (R29, R37, R42, R190) -/

theorem operate_of_marked {i : Instr} {s : State} {m : FaultMark} (hp : s.params.distinct) (hf : s.fault = some m)
    (k : Out) : operate i s k = .fault (.marked m) := by
  simp [operate, configured_of hp, hf]

theorem stepSelected_of_marked {s : State} {m : FaultMark} (hf : s.fault = some m) :
    stepSelected s = .fault (.marked m) := by
  simp [stepSelected, hf]

/-- Settles O23: the step without reset, and the guard of every operation with a selector word, look at the mark before
the selection. -/
theorem markedStateHasNoStep : Obligations.MarkedStateHasNoStep := by
  intro s m hp hf
  refine ⟨fun hr => ?_, fun i w hw => ?_⟩
  · rw [step, configured_of hp, hr]
    exact stepSelected_of_marked (s := s.tick) hf
  · obtain ⟨k, hk⟩ := exec_eq_operate hw s
    rw [hk, operate_of_marked hp hf]

/-- Settles O22: the level is looked at before the mark, and the reset action leaves a start of the machine. -/
theorem assertedResetWinsInEveryState : Obligations.AssertedResetWinsInEveryState := by
  intro s levels hp hrst
  have hnow : s.rstNow = true := by simp [State.rstNow, hrst]
  have htick : s.tick = { s with rst := levels } := by simp [State.tick, hrst]
  have hstep : step s = exec .reset { s with rst := levels } := by
    rw [step, configured_of hp, if_pos hnow, htick]
  exact ⟨hstep, hstep.trans (configured_of (s := { s with rst := levels }) hp _)⟩

/-- R26, R29: an index from 5 to 7 names no payload register. -/
theorem payRegs_write_none {r : PayRegs} {n : BitVec 3} (b : Byte) (h : 4 < n.toNat) : r.write n b = none := by
  cases hw : r.write n b with
  | none => rfl
  | some r' =>
    have hle := (payRegs_write hw).1
    omega

/-- Settles O10: the operation is the one selected, and the write that it tries names no register. -/
theorem payloadCounterBeyondFourIsRefused : Obligations.PayloadCounterBeyondFourIsRefused := by
  intro s b acc n hready hst hread hn h4 hacc
  have hsel : s.selected = some (.rxPay b) := by
    rw [selected_body (body := .pay) hst, hread]; rfl
  refine (operate_of hready.1 hready.2 hsel _).trans ?_
  simp only [hn, hacc, rxPayStore, payRegs_write_none b h4]

end Sys2Proof.Machine

/-! ## What the invariant says of each state (R21, R28, R38) -/

namespace Sys2Proof.Machine

section
variable {s : State}

theorem registersFit_bSeq (hst : s.st = .stBSeq) : s.RegistersFit ↔ s.accR = some 0 := by
  rw [State.RegistersFit, hst]

theorem registersFit_bCmp (hst : s.st = .stBCmp) : s.RegistersFit ↔ s.seqR ≠ none ∧ s.accR = some 0 := by
  rw [State.RegistersFit, hst]

theorem registersFit_bPay (hst : s.st = .stBPay) :
    s.RegistersFit ↔ s.seqR ≠ none ∧ s.cmpR ≠ none ∧ ∃ n bs, s.pcnt = some n ∧ bs.length = n.toNat ∧
      s.payR.toList.take n.toNat = bs.map some ∧ s.accR = some (byteSum bs) := by
  rw [State.RegistersFit, hst]

theorem registersFit_bChk (hst : s.st = .stBChk) :
    s.RegistersFit ↔ s.seqR ≠ none ∧ s.cmpR ≠ none ∧ ∃ p, s.payR.read = some p ∧ s.accR = some (cksum p) := by
  rw [State.RegistersFit, hst]

theorem registersFit_verdict (hst : s.st = .stVerdict) :
    s.RegistersFit ↔ s.seqR ≠ none ∧ s.cmpR ≠ none ∧ s.chkR ≠ none ∧
      ∃ p, s.payR.read = some p ∧ s.accR = some (cksum p) := by
  rw [State.RegistersFit, hst]

theorem registersFit_resp (hst : s.st = .stResp) :
    s.RegistersFit ↔ s.respR = some (if s.incPend then s.params.ack else s.params.nak) := by
  rw [State.RegistersFit, hst]

theorem not_registersFit_reserved {low : BitVec 2} (hst : s.st = .stReserved low) : ¬ s.RegistersFit := by
  rw [State.RegistersFit, hst]
  exact not_false

/-- R36, R38: the flags are missing exactly where one of the four registers that they read is unwritten. -/
theorem flags_eq_none_iff :
    s.flags = none ↔ s.seqR = none ∨ s.cmpR = none ∨ s.accR = none ∨ s.chkR = none := by
  cases hq : s.seqR <;> cases hc : s.cmpR <;> cases ha : s.accR <;> cases hk : s.chkR <;>
    simp [State.flags, hq, hc, ha, hk]

/-- R38: under the invariant the flags of `VERDICT` have their registers written. -/
theorem flags_ne_none_of_registersFit (h : s.RegistersFit) (hst : s.st = .stVerdict) : s.flags ≠ none := by
  obtain ⟨hseq, hcmp, hchk, p, _, hacc⟩ := (registersFit_verdict hst).mp h
  simp [flags_eq_none_iff, hseq, hcmp, hchk, hacc]

theorem readSelector_ne_unwritten (st : StCode) (a : Option ReadAnswer) : readSelector st a ≠ .unwritten := by
  rcases a with _ | ⟨_ | _⟩ <;> nofun

/-- R36, R38: `VERDICT` alone reads registers to select its operation. -/
theorem flags_eq_none_of_selector_unwritten (h : s.selector = .unwritten) : s.st = .stVerdict ∧ s.flags = none := by
  rw [State.selector] at h
  cases hst : s.st <;> rw [hst] at h
  case stOpen => cases ha : s.chan.openAnswer <;> simp [ha] at h
  case stVerdict =>
    refine ⟨rfl, ?_⟩
    cases hf : s.flags with
    | none => rfl
    | some f => simp [hf] at h
  case stHunt | stBSeq | stBCmp | stBPay | stBChk => exact absurd h (readSelector_ne_unwritten _ _)
  all_goals cases h

end

/-- Five bytes are a payload (R77). -/
theorem exists_payload {bs : List Byte} (h : bs.length = 5) : ∃ p : Payload, p.toList = bs := by
  match bs, h with
  | [b0, b1, b2, b3, b4], _ => exact ⟨⟨b0, b1, b2, b3, b4⟩, rfl⟩

theorem causeFits_done_of_close {c : Cause} (h : causeFits .stClose c = true) : causeFits .stDone c = true := by
  cases c with
  | none => cases h
  | _ => rfl

/-! ## The invariant holds at a start, and every move keeps it -/

section
variable {s t : State}

theorem start_inv {p : Params} (hp : p.distinct) (c : Channel) (levels : List Bool) :
    (State.start p c levels).Inv where
  distinct := hp
  noUnwrittenRead := nofun
  noBadState := nofun
  counter := nofun
  response := nofun
  pending := nofun
  capacity := fun _ _ => Nat.zero_le _
  terminated := by simp [State.start, State.reset]
  cause := rfl
  stream := rfl
  last := rfl
  registers := trivial

/-- The invariant does not look at the coming levels of `rst`. -/
theorem tick_inv (hi : s.Inv) : s.tick.Inv := { hi with }

/-- R38: under the invariant a move reads no unwritten register and is in no reserved state, so the one mark it can raise
is that of a full message. -/
theorem moves_fault (h : Moves s t) (hi : s.RegistersFit) (hf : s.fault = none) :
    t.fault = none ∨ t.fault = some .msgOverflow := by
  cases h with
  | accOverflow => exact .inr (by simp [hf])
  | accUnwritten f hst _ _ _ hr =>
    obtain ⟨_, _, _, p, hp, _⟩ := (registersFit_verdict hst).mp hi
    cases hr.symm.trans hp
  | verdictUnwritten hst hfl => exact absurd hfl (flags_ne_none_of_registersFit hi hst)
  | rxPayUnwritten b hst _ hu =>
    obtain ⟨_, _, n, bs, hn, _, _, hacc⟩ := (registersFit_bPay hst).mp hi
    simp [hn, hacc] at hu
  | txRespUnwritten hst hr => cases hr.symm.trans ((registersFit_resp hst).mp hi)
  | badState low hst => exact absurd hi (not_registersFit_reserved hst)
  | _ => exact .inl hf

/-- R29: the counter starts at 0 and counts up to 4. -/
theorem moves_counter (h : Moves s t) (hi : s.Inv) : ∀ n, t.pcnt = some n → n.toNat ≤ 4 := by
  cases h with
  | rxCmp => rintro n ⟨⟩; decide
  | rxPayMore b n a r _ _ _ _ hw h4 =>
    have hn := (payRegs_write hw).1
    rintro _ ⟨⟩
    bv_omega
  | _ => exact hi.counter

/-- R30: a verdict writes `ACK` or `NAK`. -/
theorem moves_response (h : Moves s t) (hi : s.Inv) :
    ∀ r, t.respR = some r → r = t.params.ack ∨ r = t.params.nak := by
  cases h with
  | acc => rintro _ ⟨⟩; exact .inl rfl
  | rejHdr | rejCk => rintro _ ⟨⟩; exact .inr rfl
  | _ => exact hi.response

/-- R31: an acceptance sets `inc_pend` and goes to `RESP`, and the way out of `RESP` clears it; the other moves leave it
clear, since they start in another state. -/
theorem moves_pending (h : Moves s t) (hi : s.Inv) : t.incPend = true → t.st = .stResp := by
  cases h with
  | acc => exact fun _ => rfl
  | txRespUnwritten hst => exact fun _ => hst
  | rejHdr | rejCk | txResp => nofun
  | rxEos body hst => cases body <;> simpa [hst, BodySt.st] using hi.pending
  | _ => simpa [*] using hi.pending

/-- R32, R64: an acceptance appends within the capacity. -/
theorem moves_capacity (h : Moves s t) (hi : s.Inv) : ∀ c, t.params.msgCapacity = some c → t.msg.length ≤ c := by
  cases h with
  | acc f p m _ _ _ _ _ hm =>
    obtain ⟨hm', hnil | hfits⟩ := msgAppendAll_some hm
    · rw [hnil, List.append_nil] at hm'
      exact hm' ▸ hi.capacity
    · exact hfits
  | _ => exact hi.capacity

/-- R33: the flag is set on the way into `DONE`, which no move leaves; the other moves start and end elsewhere. -/
theorem moves_terminated (h : Moves s t) (hi : s.Inv) : t.terminated = true ↔ t.st = .stDone := by
  cases h with
  | openFail | chClose => simp
  | rxEos body hst => cases body <;> simp [hi.terminated, hst, BodySt.st]
  | _ => simp [hi.terminated, *]

/-- R34: the cause is written on the way into `CLOSE` or from `OPEN` into `DONE`, and stays; the other moves are between states
that admit the same causes. -/
theorem moves_cause (h : Moves s t) (hi : s.Inv) : causeFits t.st t.cause = true := by
  cases h with
  | openFail | huntEos | rxEos | txEotAck => rfl
  | chClose hst => exact causeFits_done_of_close (hst ▸ hi.cause)
  | _ => simpa [causeFits, *] using hi.cause

/-- R35, R39: the events of a move bring their outcomes to the stream. -/
theorem moves_stream (h : Moves s t) (hi : s.Inv) : t.outcomes = t.history.filterMap Event.outcome? := by
  obtain ⟨events, bytes, happ⟩ := moves_recordsGrow h
  rw [happ.history, happ.outcomes, List.filterMap_append, hi.stream]

/-- R35: `Emit` writes the last outcome and the stream together. -/
theorem moves_last (h : Moves s t) (hi : s.Inv) : t.lastOutcome = t.outcomes.getLast?.getD .none := by
  cases h with
  | openFail | huntEos | rejHdr | rejCk | acc | rxEos | txEotAck => simp
  | _ => exact hi.last

/-- R28, R38: each move of a frame writes the register of its position, and the accumulator follows the payload. -/
theorem moves_registers (h : Moves s t) (hi : s.RegistersFit) : t.RegistersFit := by
  cases h with
  | openOk | openFail | hsNak | huntEos | huntEot | rxEos | txResp | txEotAck | chClose => trivial
  | huntNoise | doneHalt | accOverflow | accUnwritten | verdictUnwritten | rxPayUnwritten | txRespUnwritten
  | badState => exact hi
  | huntSoh => exact rfl
  | rxSeq b hst => exact ⟨nofun, (registersFit_bSeq hst).mp hi⟩
  | rxCmp b hst =>
    obtain ⟨hseq, hacc⟩ := (registersFit_bCmp hst).mp hi
    exact ⟨hseq, nofun, 0, [], rfl, rfl, rfl, hacc⟩
  | rxPayMore b n a r hst _ hn ha hw h4 =>
    obtain ⟨hseq, hcmp, n', bs, hn', hlen, hpay, hacc⟩ := (registersFit_bPay hst).mp hi
    cases hn.symm.trans hn'
    cases ha.symm.trans hacc
    have hle := (payRegs_write hw).1
    have hsucc : (n + 1).toNat = n.toNat + 1 := by bv_omega
    refine (registersFit_bPay (by exact hst)).mpr ⟨hseq, hcmp, n + 1, bs ++ [b], rfl, ?_, ?_, ?_⟩
    · rw [hsucc, List.length_append, hlen]; rfl
    · rw [hsucc]; exact payRegs_write_take hw hpay
    · rw [byteSum_append]
  | rxPayLast b a r hst _ hn ha hw =>
    obtain ⟨hseq, hcmp, n, bs, hn', hlen, hpay, hacc⟩ := (registersFit_bPay hst).mp hi
    cases hn.symm.trans hn'
    cases ha.symm.trans hacc
    obtain ⟨p, hp⟩ := exists_payload (bs := bs ++ [b]) (by simp [hlen])
    refine ⟨hseq, hcmp, p, payRegs_read_of_toList (hp ▸ payRegs_write_take hw hpay), ?_⟩
    rw [← byteSum_payload, hp, byteSum_append]
  | rxChk b hst =>
    obtain ⟨hseq, hcmp, p, hp, hacc⟩ := (registersFit_bChk hst).mp hi
    exact ⟨hseq, hcmp, nofun, p, hp, hacc⟩
  | rejHdr | rejCk | acc => exact rfl

theorem moves_inv (h : Moves s t) (hi : s.Inv) (hf : s.fault = none) : t.Inv where
  distinct := by
    obtain ⟨_, _, happ⟩ := moves_recordsGrow h
    exact happ.params ▸ hi.distinct
  noUnwrittenRead := by rcases moves_fault h hi.registers hf with ht | ht <;> simp [ht]
  noBadState := by rcases moves_fault h hi.registers hf with ht | ht <;> simp [ht]
  counter := moves_counter h hi
  response := moves_response h hi
  pending := moves_pending h hi
  capacity := moves_capacity h hi
  terminated := moves_terminated h hi
  cause := moves_cause h hi
  stream := moves_stream h hi
  last := moves_last h hi
  registers := moves_registers h hi.registers

end

/-- Settles O43: a step is the reset action, which leaves a start of the machine, or one of `Moves`. -/
theorem stepKeepsTheInvariant : Obligations.StepKeepsTheInvariant := by
  intro s t hi h
  obtain ⟨hp, ⟨_, rfl⟩ | ⟨_, hf, hmove⟩⟩ := step_moves h
  · exact start_inv hp s.chan s.rst.tail
  · exact moves_inv hmove (tick_inv hi) hf

theorem reaches_inv {s t : State} (h : Reaches s t) (hi : s.Inv) : t.Inv := by
  induction h with
  | refl => exact hi
  | step _ hstep ih => exact stepKeepsTheInvariant _ _ ih hstep

/-- Settles O44: a reached state meets the invariant, which has the registers of `VERDICT` written and no reserved
state. -/
theorem reachedStatesReadWrittenRegisters : Obligations.ReachedStatesReadWrittenRegisters := by
  intro p c levels s hp h
  have hi := reaches_inv h (start_inv hp c levels)
  refine ⟨hi.noUnwrittenRead, hi.noBadState, fun hsel => ?_, fun low hst => ?_⟩
  · obtain ⟨hst, hflags⟩ := flags_eq_none_of_selector_unwritten hsel
    exact flags_ne_none_of_registersFit hi.registers hst hflags
  · exact not_registersFit_reserved hst hi.registers

/-! ## Reading an unwritten register (R38) -/

/-- R37: the first mark is the one that stays. -/
theorem raise_of_unmarked {s : State} (hf : s.fault = none) (m : FaultMark) :
    s.raise m = { s with fault := some m } := by
  simp [State.raise, hf]

/-- Settles O25: each of the reads is a move that raises the mark. -/
theorem unwrittenReadRaisesItsMark : Obligations.UnwrittenReadRaisesItsMark := by
  intro s ⟨hp, hf⟩ hr hread
  have hmove : Moves s.tick (s.tick.raise .unwrittenRead) := by
    obtain ⟨hst, hregs⟩ | ⟨hst, hpay, f, hflags, hhdr, hck⟩ | ⟨hst, ⟨b, hb⟩, hregs⟩ | ⟨hst, hresp⟩ := hread
    · exact .verdictUnwritten hst (flags_eq_none_iff.mpr hregs)
    · exact .accUnwritten f hst hflags hhdr hck hpay
    · exact .rxPayUnwritten b hst hb hregs
    · exact .txRespUnwritten hst hresp
  rw [step_of_moves hp hf hr hmove, raise_of_unmarked (s := s.tick) hf]
  rfl

end Sys2Proof.Machine

/-! Proofs of the statements of 20_memory.md. -/

namespace Sys2Proof.Machine

/-! ## The verdict that overflows the message (R37, R64, R146, R147) -/

section
variable {s : State}

/-- R64: an acceptance whose bytes do not fit raises the mark and does nothing else. -/
theorem accept_of_overflow {p : Payload} {cap : Nat} (hf : s.fault = none) (hpay : s.payR.read = some p)
    (hcap : s.params.msgCapacity = some cap) (hle : s.msg.length ≤ cap)
    (hover : cap < s.msg.length + (etxfilt s.params.etx p).length) (o : OutcomeCode) :
    accept s o = .next { s with fault := some .msgOverflow } := by
  have hne : etxfilt s.params.etx p ≠ [] := by
    intro hnil
    rw [hnil, List.length_nil] at hover
    omega
  have happend : msgAppendAll s.params.msgCapacity s.msg (etxfilt s.params.etx p) = none :=
    hcap ▸ msgAppendAll_of_overflow hne hover
  simp only [accept, hpay, happend, raise_of_unmarked hf]

/-- R85: a frame that passes both checks selects one of the two acceptances, by its sequence number alone. -/
theorem selected_of_good_frame {q c acc : Byte} (hst : s.st = .stVerdict) (hq : s.seqR = some q)
    (hc : s.cmpR = some c) (hacc : s.accR = some acc) (hchk : s.chkR = some acc) (hhdr : c.toNat = 255 - q.toNat) :
    s.selected = some (if q = s.expSeq then .vdAcc else .vdAccWarn) := by
  have hflags : s.flags = some { hdrOk := true, ckOk := true, seqEq := q == s.expSeq } := by
    simp [State.flags, hq, hc, hacc, hchk, flagsOf, (hdrchk_iff q c).mpr hhdr]
  simp [selected_verdict hst, hflags, verdictOp]

end

/-- Settles O15: the sequence number selects the operation, and either one is the acceptance, whose appends
are undone. -/
theorem overflowUndoesTheWholeVerdict : Obligations.OverflowUndoesTheWholeVerdict := by
  intro s q c acc b0 b1 b2 b3 b4 cap ⟨hp, hf⟩ hst hq hc hacc hchk hhdr hpay hcap hle hover
  have hread : s.payR.read = some ⟨b0, b1, b2, b3, b4⟩ := by rw [hpay]; rfl
  have hsel := selected_of_good_frame hst hq hc hacc hchk hhdr
  have haccept := accept_of_overflow hf hread hcap hle hover
  refine ⟨fun heq => ?_, fun hne => ?_⟩
  · rw [if_pos heq] at hsel
    exact (operate_of hp hf hsel _).trans (haccept _)
  · rw [if_neg hne] at hsel
    exact (operate_of hp hf hsel _).trans (haccept _)

/-! ## The silent channel (R51 to R54, R66, R201) -/

section
variable {s : State}

theorem step_of_no_reset (hp : s.params.distinct) (hr : s.rstNow = false) : step s = stepSelected s.tick := by
  rw [step, configured_of hp, hr, if_neg Bool.false_ne_true]

theorem chanWrite_of_silent (h : s.chan.acceptsWrite = false) (b : Byte) (k : State → State) :
    chanWrite s b k = .fault .channelSilent := if_neg (by simp [h])

theorem chanClose_of_silent (h : s.chan.acceptsClose = false) (k : State → State) :
    chanClose s k = .fault .channelSilent := if_neg (by simp [h])

theorem selector_of_silent_open (hst : s.st = .stOpen) (ha : s.chan.openAnswer = none) : s.selector = .silent := by
  simp only [State.selector, hst, ha]

theorem selector_of_silent_read (hst : s.st = .stHunt ∨ ∃ body, s.st = BodySt.st body)
    (ha : s.chan.readAnswer = none) : s.selector = .silent := by
  obtain hst | ⟨body, hst⟩ := hst
  · simp only [State.selector, hst, ha, readSelector]
  · cases body <;> simp only [State.selector, hst, BodySt.st, ha, readSelector]

theorem stepSelected_of_silent_selector (hf : s.fault = none) (h : s.selector = .silent) :
    stepSelected s = .fault .channelSilent := by
  simp only [stepSelected, hf, h]

/-- The step is what stands behind the guard of the selected operation. -/
theorem stepSelected_of_operate {i : Instr} {k : Out} (hp : s.params.distinct) (hf : s.fault = none)
    (hs : s.selected = some i) (he : exec i s = operate i s k) : stepSelected s = k := by
  rw [stepSelected_of hf hs, he, operate_of hp hf hs]

/-- R52: the three operations that write. -/
theorem stepSelected_of_silent_write (hp : s.params.distinct) (hf : s.fault = none)
    (hst : s.st = .stHandshake ∨ s.st = .stEotAck ∨ (s.st = .stResp ∧ s.respR ≠ none))
    (ha : s.chan.acceptsWrite = false) : stepSelected s = .fault .channelSilent := by
  obtain hst | hst | ⟨hst, hresp⟩ := hst
  · exact (stepSelected_of_operate hp hf (selected_handshake hst) rfl).trans (chanWrite_of_silent ha _ _)
  · exact (stepSelected_of_operate hp hf (selected_eotAck hst) rfl).trans (chanWrite_of_silent ha _ _)
  · obtain ⟨r, hr⟩ := Option.ne_none_iff_exists'.mp hresp
    refine (stepSelected_of_operate hp hf (selected_resp hst) rfl).trans ?_
    simp only [hr, chanWrite_of_silent ha]

end

/-- Settles O24: a silent open or read leaves no selector word, and a silent write or close stops the operation that
makes it. -/
theorem silentChannelLeavesNoStep : Obligations.SilentChannelLeavesNoStep := by
  intro s ⟨hp, hf⟩ hr hsilent
  rw [step_of_no_reset hp hr]
  obtain ⟨hst, ha⟩ | ⟨hst, ha⟩ | ⟨hst, ha⟩ | ⟨hst, ha⟩ := hsilent
  · exact stepSelected_of_silent_selector (s := s.tick) hf (selector_of_silent_open hst ha)
  · exact stepSelected_of_silent_selector (s := s.tick) hf (selector_of_silent_read hst ha)
  · exact stepSelected_of_silent_write (s := s.tick) hp hf hst ha
  · exact (stepSelected_of_operate (s := s.tick) hp hf (selected_close hst) rfl).trans
      (chanClose_of_silent (s := s.tick) ha _)

end Sys2Proof.Machine

/-! Proofs of the statements of 30_encoding.md. -/

/-! ## The opcode map (R82 to R86) -/

namespace Sys2Proof

/-- Settles O30: the constructors' own round trips, whose shared part is what the decoder reads from a word of each
state. -/
theorem decodeOfEncodeIsTheOperation : Obligations.DecodeOfEncodeIsTheOperation
  | .openFail => Laws.RoundTrip.openFail
  | .openOk => Laws.RoundTrip.openOk
  | .hsNak => Laws.RoundTrip.hsNak
  | .huntEos => Laws.RoundTrip.huntEos
  | .huntEot => Laws.RoundTrip.huntEot
  | .huntSoh => Laws.RoundTrip.huntSoh
  | .huntNoise b => Laws.RoundTrip.huntNoise b
  | .vdRejHdr ckOk seqEq => Laws.RoundTrip.vdRejHdr ckOk seqEq
  | .vdRejCk seqEq => Laws.RoundTrip.vdRejCk seqEq
  | .vdAcc => Laws.RoundTrip.vdAcc
  | .vdAccWarn => Laws.RoundTrip.vdAccWarn
  | .rxEos body => Laws.RoundTrip.rxEos body
  | .rxSeq b => Laws.RoundTrip.rxSeq b
  | .rxCmp b => Laws.RoundTrip.rxCmp b
  | .rxPay b => Laws.RoundTrip.rxPay b
  | .rxChk b => Laws.RoundTrip.rxChk b
  | .txResp => Laws.RoundTrip.txResp
  | .txEotAck => Laws.RoundTrip.txEotAck
  | .chClose => Laws.RoundTrip.chClose
  | .doneHalt => Laws.RoundTrip.doneHalt
  | .badState low => Laws.RoundTrip.badState low
  | .cksum q => Laws.RoundTrip.cksum q
  | .hdrchk s c => Laws.RoundTrip.hdrchk s c
  | .ckchk q k => Laws.RoundTrip.ckchk q k
  | .accum a b => Laws.RoundTrip.accum a b
  | .etxfilt q => Laws.RoundTrip.etxfilt q
  | .reset => Laws.RoundTrip.reset

section
variable (p : Params) (eos : Bool) (d : Byte)

/-- `HUNT` (R82): the noise operation is read only from a byte that is neither `EOT` nor `SOH`. -/
theorem decode_hunt_wf : ∃ i, decode p (mkSel .stHunt eos d) = some i ∧ i.wf p = true := by
  refine ⟨_, decode_hunt p eos d, ?_⟩
  split_ifs with _ heot hsoh
  · rfl
  · rfl
  · rfl
  · simp [Instr.wf, heot, hsoh]

theorem decode_verdict_wf : ∃ i, decode p (mkSel .stVerdict eos d) = some i ∧ i.wf p = true := by
  refine ⟨_, decode_verdict p eos d, ?_⟩
  split_ifs <;> rfl

theorem decode_body_wf (body : BodySt) : ∃ i, decode p (mkSel body.st eos d) = some i ∧ i.wf p = true := by
  cases eos with
  | true => exact ⟨_, (decode_body p body d).1, rfl⟩
  | false => exact ⟨_, (decode_body p body d).2, by cases body <;> rfl⟩

/-- R86: in each state, every value of the other two fields is read as a well-formed operation. -/
theorem decode_mkSel_wf (st : StCode) : ∃ i, decode p (mkSel st eos d) = some i ∧ i.wf p = true := by
  obtain ⟨hHandshake, hResp, hEotAck, hClose, hDone⟩ := decode_plain p eos d
  cases st with
  | stOpen => exact ⟨_, decode_open p eos d, by split <;> rfl⟩
  | stHandshake => exact ⟨_, hHandshake, rfl⟩
  | stHunt => exact decode_hunt_wf p eos d
  | stVerdict => exact decode_verdict_wf p eos d
  | stBSeq => exact decode_body_wf p eos d .seq
  | stBCmp => exact decode_body_wf p eos d .cmp
  | stBPay => exact decode_body_wf p eos d .pay
  | stBChk => exact decode_body_wf p eos d .chk
  | stResp => exact ⟨_, hResp, rfl⟩
  | stEotAck => exact ⟨_, hEotAck, rfl⟩
  | stClose => exact ⟨_, hClose, rfl⟩
  | stDone => exact ⟨_, hDone, rfl⟩
  | stReserved low => exact ⟨_, decode_reserved p low eos d, rfl⟩

end

/-- Settles O31: a word is the one built from its own fields. -/
theorem everySelectorWordDecodes : Obligations.EverySelectorWordDecodes := by
  intro p w
  rw [← mkSel_fields w]
  exact decode_mkSel_wf p _ _ _

/-- Settles O32: what the decoder reads in `HUNT` and in each body state. -/
theorem answersAreClassifiedInOrder : Obligations.AnswersAreClassifiedInOrder := fun p b =>
  ⟨decode_hunt p true b, decode_hunt p false b, fun body => (decode_body p body b).1, (decode_body p .seq b).2,
    (decode_body p .cmp b).2, (decode_body p .pay b).2, (decode_body p .chk b).2⟩

/-- Settles O33: each word is read by evaluation of the map. -/
theorem tableWordsDecode : Obligations.TableWordsDecode := by
  unfold Obligations.TableWordsDecode
  decide

/-! ## The frame on the wire (R77, R78, R80) -/

section
variable {p : Params} {bs : List Byte} {f : Frame}

theorem ofBytes_bytes (p : Params) (f : Frame) : Frame.ofBytes p (f.bytes p) = .ok f := if_pos rfl

theorem eq_bytes_of_ofBytes (h : Frame.ofBytes p bs = .ok f) : bs = f.bytes p := by
  unfold Frame.ofBytes at h
  split at h
  · split at h
    · subst_vars; cases h; rfl
    · cases h
  · cases h

theorem ofBytes_eq_ok_iff : Frame.ofBytes p bs = .ok f ↔ bs = f.bytes p :=
  ⟨eq_bytes_of_ofBytes, fun h => h ▸ ofBytes_bytes p f⟩

/-- Nine bytes that begin with `SOH` are the bytes of a frame. -/
theorem exists_frame_bytes (hlen : bs.length = 9) (hsoh : bs.head? = some p.soh) : ∃ f : Frame, bs = f.bytes p := by
  let [soh, q, c, b0, b1, b2, b3, b4, k] := bs
  cases hsoh
  exact ⟨⟨q, c, ⟨b0, b1, b2, b3, b4⟩, k⟩, rfl⟩

end

/-- Settles O34: extraction undoes assembly, and only bytes that were assembled are extracted. -/
theorem frameOnTheWireRoundTrips : Obligations.FrameOnTheWireRoundTrips := by
  intro p bs
  simp only [ofBytes_eq_ok_iff, implies_true, true_and]
  constructor
  · rintro ⟨f, rfl⟩
    exact ⟨rfl, rfl⟩
  · rintro ⟨hlen, hsoh⟩
    exact exists_frame_bytes hlen hsoh

end Sys2Proof

/-! ## The pseudo-operations (R88) -/

namespace Sys2Proof.Machine

theorem hdrchk_complement (q : Byte) : hdrchk q (BitVec.ofNat 8 (255 - q.toNat)) = true := by
  rw [hdrchk_iff, BitVec.toNat_ofNat]
  omega

/-- R101: no other byte passes the header check beside the complement. -/
theorem hdrchk_unique {q c d : Byte} (hc : hdrchk q c = true) (hd : hdrchk q d = true) : c = d := by
  rw [hdrchk_iff] at hc hd
  exact BitVec.eq_of_toNat_eq (hc.trans hd.symm)

theorem hdrchk_complement_flipped (q : Byte) : hdrchk q (BitVec.ofNat 8 (255 - q.toNat) ^^^ 1) = false := by
  have hne : ∀ c : Byte, c ^^^ 1 ≠ c := by decide
  by_contra h
  exact hne _ (hdrchk_unique (Bool.eq_true_of_not_eq_false h) (hdrchk_complement q))

theorem ckchk_cksum (p : Payload) : ckchk p (cksum p) = true := beq_self_eq_true _

theorem ckchk_cksum_increased (p : Payload) : ckchk p (accum (cksum p) 1) = false := by
  simp [ckchk, accum_eq_add]

/-- R88: the text stands first, and `ETX` fills the payload. -/
theorem padPayload_toList (etx : Byte) {text : List Byte} (h : text.length ≤ 5) :
    (padPayload etx text).toList = text ++ List.replicate (5 - text.length) etx := by
  match text, h with
  | [], _ | [_], _ | [_, _], _ | [_, _, _], _ | [_, _, _, _], _ | [_, _, _, _, _], _ => rfl

/-- Settles O40: the header byte is the complement or that with a bit flipped, and the checksum byte is the checksum or
one more. -/
theorem pseudoOperationsAreGoodAndBadFrames : Obligations.PseudoOperationsAreGoodAndBadFrames := fun etx n _ =>
  ⟨⟨hdrchk_complement n, ckchk_cksum _⟩, ⟨hdrchk_complement_flipped n, ckchk_cksum _⟩,
    ⟨hdrchk_complement n, ckchk_cksum_increased _⟩, padPayload_toList etx⟩

end Sys2Proof.Machine

/-! ## The bytes written (R81, R153) -/

namespace Sys2Proof.Machine

/-- The one byte that a state may write, in each of the states that write. -/
def State.Writes (s : State) (b : Byte) : Prop :=
  (s.st = .stHandshake ∧ b = s.params.nak) ∨ (s.st = .stResp ∧ s.respR = some b) ∨
    (s.st = .stEotAck ∧ b = s.params.ack)

section
variable {s t : State} {b : Byte}

/-- Every way of a step but the reset appends no `Wr` event but that of the state. -/
theorem moves_writes (h : Moves s t) :
    ∃ events, t.history = s.history ++ events ∧ ∀ b, .wr b ∈ events → s.Writes b := by
  cases h with
  | hsNak hst => exact ⟨[.wr _], rfl, by simp [State.Writes, hst]⟩
  | txResp r hst hr => exact ⟨[.wr r], rfl, by simp [State.Writes, hst, hr]⟩
  | txEotAck hst => exact ⟨[.wr s.params.ack, .out .eot], by simp, by simp [State.Writes, hst]⟩
  | openOk => exact ⟨[.opened true], rfl, by simp⟩
  | openFail => exact ⟨[.opened false, .out .openFail], by simp, by simp⟩
  | huntEot | huntSoh | huntNoise | rxSeq | rxCmp | rxPayMore | rxPayLast | rxChk => exact ⟨[.rd _], rfl, by simp⟩
  | huntEos | rxEos => exact ⟨[.rd .eos, .out .ioFault], by simp, by simp⟩
  | rejHdr | rejCk | acc => exact ⟨[.out _], rfl, by simp⟩
  | chClose => exact ⟨[.closed], rfl, by simp⟩
  | accOverflow | accUnwritten | verdictUnwritten | rxPayUnwritten | txRespUnwritten | doneHalt | badState =>
    exact ⟨[], by simp, by simp⟩

/-- R30: the response register holds `ACK` or `NAK`. -/
theorem control_of_writes (hi : s.Inv) (h : s.Writes b) :
    (b = s.params.ack ∨ b = s.params.nak) ∧ (s.st = .stHandshake ∨ s.st = .stResp ∨ s.st = .stEotAck) := by
  obtain ⟨hst, hb⟩ | ⟨hst, hr⟩ | ⟨hst, hb⟩ := h
  · exact ⟨.inr hb, .inl hst⟩
  · exact ⟨hi.response b hr, .inr (.inl hst)⟩
  · exact ⟨.inl hb, .inr (.inr hst)⟩

end

/-- Settles O49: a reset clears the history, and every other step writes the byte of its state. -/
theorem onlyControlBytesAreWritten : Obligations.OnlyControlBytesAreWritten := by
  intro s t events b hi hstep hhist hb
  obtain ⟨_, ⟨_, rfl⟩ | ⟨_, _, hmove⟩⟩ := step_moves hstep
  · have hnil : events = [] := (List.append_eq_nil_iff.mp hhist.symm).2
    simp [hnil] at hb
  · obtain ⟨written, hwritten, hwrites⟩ := moves_writes hmove
    have heq : events = written := List.append_cancel_left (hhist.symm.trans hwritten)
    exact control_of_writes (s := s.tick) (tick_inv hi) (hwrites b (heq ▸ hb))

end Sys2Proof.Machine

/-! ## The word of a state, and the placed word (R84) -/

namespace Sys2Proof.Machine

/-- Settles O27: the operation read from the selector word is the one selected, and `tick` changes neither. -/
theorem stepRunsTheSelectedOperation : Obligations.StepRunsTheSelectedOperation := by
  intro s w i ⟨hp, hf⟩ hr hw hd
  have hsel : s.selected = some i := by simp only [State.selected, hw, hd]
  rw [step_of_no_reset hp hr]
  exact stepSelected_of (s := s.tick) hf hsel

/-- The answer to a read that a selector word names. -/
def selAnswer (w : Sel) : ReadAnswer := if selEos w then .eos else .byte (selData w)

theorem selAnswer_mkSel (st : StCode) (eos : Bool) (d : Byte) :
    selAnswer (mkSel st eos d) = if eos then .eos else .byte d := by
  rw [selAnswer, selEos_mkSel, selData_mkSel]

section
variable (s : State) (w : Sel)

/-- In every state, placing a word sets the state code, takes the mark and the levels of `rst` away, and keeps the
parameters. -/
theorem place_control :
    (s.place w).st = selSt w ∧ (s.place w).params = s.params ∧ (s.place w).fault = none ∧
      (s.place w).rst = [] := by
  cases h : selSt w <;> simp [State.place, State.placeFrame, h]

@[simp] theorem place_st : (s.place w).st = selSt w := (place_control s w).1

@[simp] theorem place_params : (s.place w).params = s.params := (place_control s w).2.1

variable {w}

theorem place_openAnswer (h : selSt w = .stOpen) : (s.place w).chan.openAnswer = some (w.getLsbD 0) := by
  simp only [State.place, h, Channel.openAnswer]

theorem place_readAnswer (h : selSt w = .stHunt ∨ ∃ body, selSt w = BodySt.st body) :
    (s.place w).chan.readAnswer = some (selAnswer w) := by
  obtain h | ⟨body, h⟩ := h
  · simp only [State.place, h, Channel.readAnswer, selAnswer]
  · cases body <;> simp only [State.place, h, BodySt.st, Channel.readAnswer, selAnswer]

/-- The placed frame has the flags that it is placed for (R36). -/
theorem placeFrame_flags (hdrOk ckOk seqEq : Bool) :
    (s.placeFrame hdrOk ckOk seqEq).flags = some ⟨hdrOk, ckOk, seqEq⟩ := by
  have hhdr (q : Byte) :
      hdrchk q (if hdrOk then BitVec.ofNat 8 (255 - q.toNat) else BitVec.ofNat 8 (255 - q.toNat) ^^^ 1) = hdrOk := by
    cases hdrOk
    · exact hdrchk_complement_flipped q
    · exact hdrchk_complement q
  have hck (p : Payload) : ckchk p (if ckOk then cksum p else accum (cksum p) 1) = ckOk := by
    cases ckOk
    · exact ckchk_cksum_increased p
    · exact ckchk_cksum p
  have hseq : ((if seqEq then s.expSeq else seqNext s.expSeq) == s.expSeq) = seqEq := by
    cases seqEq <;> simp [seqNext_eq_add]
  simp only [State.flags, State.placeFrame, flagsOf, Option.some.injEq, Flags.mk.injEq]
  exact ⟨hhdr _, hck _, hseq⟩

theorem place_flags (h : selSt w = .stVerdict) :
    (s.place w).flags = some ⟨w.getLsbD 2, w.getLsbD 1, w.getLsbD 0⟩ := by
  simp only [State.place, h, placeFrame_flags]

end

/-- R82: the answer selects what the word of `HUNT` decodes to. -/
theorem place_selected_hunt (s : State) (eos : Bool) (d : Byte) :
    (s.place (mkSel .stHunt eos d)).selected = decode s.params (mkSel .stHunt eos d) := by
  rw [selected_hunt (by simp), place_readAnswer s (.inl (by simp)), place_params, decode_hunt, selAnswer_mkSel]
  cases eos <;> rfl

/-- R83: the answer selects what the word of a body state decodes to. -/
theorem place_selected_body (s : State) (body : BodySt) (eos : Bool) (d : Byte) :
    (s.place (mkSel body.st eos d)).selected = decode s.params (mkSel body.st eos d) := by
  rw [selected_body (body := body) (by simp), place_readAnswer s (.inr ⟨body, by simp⟩), selAnswer_mkSel]
  cases eos with
  | true => exact (decode_body s.params body d).1.symm
  | false =>
    rw [(decode_body s.params body d).2]
    cases body <;> rfl

/-- R84: a placed word is the one that the state's selection decodes. -/
theorem place_selected (s : State) (w : Sel) : (s.place w).selected = decode s.params w := by
  obtain ⟨st, eos, d, rfl⟩ : ∃ st eos d, w = mkSel st eos d := ⟨_, _, _, (mkSel_fields w).symm⟩
  obtain ⟨hHandshake, hResp, hEotAck, hClose, hDone⟩ := decode_plain s.params eos d
  have hst := (place_st s (mkSel st eos d)).trans (selSt_mkSel st eos d)
  have hbit (i : Nat) (hi : i < 8) := mkSel_getLsbD st eos d i hi
  cases st with
  | stOpen =>
    rw [selected_open hst, place_openAnswer s (selSt_mkSel _ _ _), decode_open, hbit 0 (by omega)]
    rfl
  | stHandshake => rw [selected_handshake hst, hHandshake]
  | stHunt => exact place_selected_hunt s eos d
  | stVerdict =>
    rw [selected_verdict hst, place_flags s (selSt_mkSel _ _ _), decode_verdict, hbit 0 (by omega), hbit 1 (by omega),
      hbit 2 (by omega)]
    rfl
  | stBSeq => exact place_selected_body s .seq eos d
  | stBCmp => exact place_selected_body s .cmp eos d
  | stBPay => exact place_selected_body s .pay eos d
  | stBChk => exact place_selected_body s .chk eos d
  | stResp => rw [selected_resp hst, hResp]
  | stEotAck => rw [selected_eotAck hst, hEotAck]
  | stClose => rw [selected_close hst, hClose]
  | stDone => rw [selected_done hst, hDone]
  | stReserved low => rw [selected_reserved hst, decode_reserved]

/-- Settles O29: the word decodes (R86), and the placed state selects what it decodes to. -/
theorem placedWordIsSelected : Obligations.PlacedWordIsSelected := by
  intro s w hp
  obtain ⟨i, hi, _⟩ := everySelectorWordDecodes s.params w
  obtain ⟨_, hparams, hfault, hrst⟩ := place_control s w
  exact ⟨i, hi, (place_selected s w).trans hi, ⟨hparams.symm ▸ hp, hfault⟩, hrst⟩

end Sys2Proof.Machine

/-! Proofs of the statements of 40_codec.md. -/

/-! ## The checksum as the sum of a list of bytes (R100, R103) -/

namespace Sys2Proof.Machine

theorem byteSum_perm {bs cs : List Byte} (h : bs.Perm cs) : byteSum bs = byteSum cs := by
  rw [byteSum, byteSum, (h.map BitVec.toNat).sum_nat]

/-- Settles O36: the checksum is the sum of the payload's bytes, and a permutation keeps a sum. -/
theorem checksumIgnoresOrder : Obligations.ChecksumIgnoresOrder := by
  intro p q h
  rw [← byteSum_payload p, ← byteSum_payload q, byteSum_perm h]

/-- R28, R103: adding bytes one by one to a cleared accumulator gives their sum. -/
theorem foldl_accum_zero (bs : List Byte) : bs.foldl accum 0 = byteSum bs := by
  induction bs using List.reverseRecOn with
  | nil => rfl
  | append_singleton bs b ih => rw [List.foldl_concat, ih, byteSum_append]

/-- Settles O38: the accumulator holds the checksum, and `ck_ok` compares it with the received byte as `CKCHK` does. -/
theorem accumulatingGivesTheChecksum : Obligations.AccumulatingGivesTheChecksum := by
  intro p seq cmp chk exp
  have hsum : p.toList.foldl accum 0x00 = cksum p := (foldl_accum_zero p.toList).trans (byteSum_payload p)
  exact ⟨hsum, by rw [hsum]; rfl⟩

end Sys2Proof.Machine

/-! ## The header check (R101) -/

namespace Sys2Proof.Machine

theorem hdrchk_eq_decide (q c : Byte) : hdrchk q c = decide (c.toNat = 255 - q.toNat) :=
  Bool.eq_iff_iff.mpr ((hdrchk_iff q c).trans decide_eq_true_iff.symm)

theorem hdrchk_iff_eq_not (s c : Byte) : hdrchk s c = true ↔ c = ~~~s := by
  rw [hdrchk_iff, ← BitVec.toNat_inj, BitVec.toNat_not]

theorem hdrchk_iff_add (s c : Byte) : hdrchk s c = true ↔ s.toNat + c.toNat = 255 := by
  have := s.isLt
  rw [hdrchk_iff]
  omega

/-- R101: a byte XOR its complement is `0xFF`, and XOR with one byte takes different bytes to different ones. -/
theorem hdrchk_iff_xor (s c : Byte) : hdrchk s c = true ↔ s ^^^ c = 0xFF := by
  have hself : s ^^^ ~~~s = 0xFF := by rw [← BitVec.not_xor_right, BitVec.xor_self]; rfl
  rw [hdrchk_iff_eq_not, ← hself, BitVec.xor_right_inj]

/-- Settles O37: the passing byte is the complement, in each of its three forms. -/
theorem headerCheckIsTheComplement : Obligations.HeaderCheckIsTheComplement := by
  intro s c
  refine ⟨hdrchk_iff_xor s c, hdrchk_iff_add s c, fun d hc => ⟨fun hd => hdrchk_unique hd hc, ?_⟩⟩
  rintro rfl
  exact hc

end Sys2Proof.Machine

/-! ## The codec functions as operations (R100 to R105) -/

namespace Sys2Proof.Machine

theorem cksum_toNat (p : Payload) :
    (cksum p).toNat = (p.b0.toNat + p.b1.toNat + p.b2.toNat + p.b3.toNat + p.b4.toNat) % 256 := by
  rw [cksum, BitVec.toNat_ofNat, Nat.mod_mod]

theorem accum_toNat (a b : Byte) : (accum a b).toNat = (a.toNat + b.toNat) % 256 := by
  rw [accum, BitVec.toNat_ofNat, Nat.mod_mod]

section
variable {s : State}

theorem exec_cksum (hp : s.params.distinct) (p : Payload) :
    exec (.cksum p) s = .next (s.showCodec (.byte (cksum p))) := configured_of hp _

theorem exec_hdrchk (hp : s.params.distinct) (q c : Byte) :
    exec (.hdrchk q c) s = .next (s.showCodec (.flag (hdrchk q c))) := configured_of hp _

theorem exec_ckchk (hp : s.params.distinct) (p : Payload) (k : Byte) :
    exec (.ckchk p k) s = .next (s.showCodec (.flag (ckchk p k))) := configured_of hp _

theorem exec_accum (hp : s.params.distinct) (a b : Byte) :
    exec (.accum a b) s = .next (s.showCodec (.byte (accum a b))) := configured_of hp _

theorem exec_etxfilt (hp : s.params.distinct) (p : Payload) :
    exec (.etxfilt p) s = .next (s.showCodec (.bytes (etxfilt s.params.etx p))) := configured_of hp _

end

/-- Settles O35: in an admitted configuration each function shows its value at the output port, and the values are those
of the formulas. -/
theorem codecFunctionsHaveTheirValues : Obligations.CodecFunctionsHaveTheirValues := by
  intro s hp
  refine ⟨fun b0 b1 b2 b3 b4 => ⟨_, cksum_toNat ⟨b0, b1, b2, b3, b4⟩, exec_cksum hp _, exec_ckchk hp _⟩, fun q c => ?_,
    fun a b => ⟨_, accum_toNat a b, exec_accum hp a b⟩, fun _ _ _ _ _ => exec_etxfilt hp _⟩
  rw [exec_hdrchk hp, hdrchk_eq_decide]
  rfl

end Sys2Proof.Machine

/-! ## The sequence increment (R107) -/

namespace Sys2Proof.Machine

theorem seqNext_toNat (e : Byte) : (seqNext e).toNat = (e.toNat + 1) % 256 := by
  rw [seqNext, BitVec.toNat_ofNat, Nat.mod_mod]

theorem iterate_seqNext_toNat (e : Byte) (k : Nat) : (seqNext^[k] e).toNat = (e.toNat + k) % 256 := by
  induction k with
  | zero => exact (Nat.mod_eq_of_lt e.isLt).symm
  | succ k ih => rw [Function.iterate_succ_apply', seqNext_toNat, ih, Nat.mod_add_mod, Nat.add_assoc]

/-- Settles O39: the increments from any start add up modulo 256, here from 1. -/
theorem sequenceCountsModulo256 : Obligations.SequenceCountsModulo256 := iterate_seqNext_toNat 0x01

end Sys2Proof.Machine

/-! Proofs of the statements of 41_framer.md. -/

/-! ## One completed read (R121 to R129) -/

namespace Sys2Proof.Machine

section
variable {s t : State} {i : Instr} {a : ReadAnswer}

theorem selected_hunt_of_read (hst : s.st = .stHunt) (ha : s.chan.readAnswer = some a) :
    s.selected = some (huntOp s.params a) := by
  rw [selected_hunt hst, ha]; rfl

theorem selected_body_of_read {body : BodySt} (hst : s.st = body.st) (ha : s.chan.readAnswer = some a) :
    s.selected = some (bodyOp body a) := by
  rw [selected_body hst, ha]; rfl

theorem huntOp_eot (p : Params) : huntOp p (.byte p.eot) = .huntEot := if_pos rfl

/-- R9, R82: `SOH` is no `EOT`. -/
theorem huntOp_soh {p : Params} (hp : p.distinct) : huntOp p (.byte p.soh) = .huntSoh := by
  have hne : p.soh ≠ p.eot := by intro h; simp [h] at hp
  simp [huntOp, hne]

/-- R13, R84: the operation that a ready state selects completes with the state's move. -/
theorem completes_of_moves (hready : s.Ready) (hsel : s.selected = some i) (hm : Moves s t) :
    s.selected = some i ∧ exec i s = .next t :=
  ⟨hsel, (stepSelected_of hready.2 hsel).symm.trans (stepSelected_of_moves hready.1 hready.2 hm)⟩

/-- R179: the fatal-error entry, in full. -/
theorem fatal_eq (s : State) : s.fatal = { s with
    chan := s.chan.afterRead
    history := s.history ++ [.rd .eos, .out .ioFault]
    outcomes := s.outcomes ++ [.ioFault]
    lastOutcome := .ioFault
    cause := .ioFault
    st := .stClose } := by
  simp [State.fatal, State.emit, State.readDone]

/-- R127: what `RX_PAY` does to a state in which its two registers are written. -/
theorem rxPay_completes {b acc : Byte} {n : BitVec 3} {regs : PayRegs} (hready : s.Ready) (hst : s.st = .stBPay)
    (hread : s.chan.readAnswer = some (.byte b)) (hn : s.pcnt = some n) (hacc : s.accR = some acc)
    (hw : s.payR.write n b = some regs) :
    s.selected = some (.rxPay b) ∧ exec (.rxPay b) s = .next { s with
      chan := s.chan.afterRead
      history := s.history ++ [.rd (.byte b)]
      payR := regs
      accR := some (accum acc b)
      pcnt := some (if n = 4 then 4 else n + 1)
      st := if n = 4 then .stBChk else .stBPay } := by
  refine completes_of_moves hready (selected_body_of_read (body := .pay) hst hread) ?_
  by_cases h4 : n = 4
  · subst h4
    have hmove := Moves.rxPayLast b acc regs hst hread hn hacc hw
    simpa [State.readDone, hn] using hmove
  · have hmove := Moves.rxPayMore b n acc regs hst hread hn hacc hw h4
    simpa only [State.readDone, hst, if_neg h4] using hmove

end

/-- Settles O4: `EOS` selects the operation of its state, and each is the fatal-error entry. -/
theorem endOfStreamEntersClose : Obligations.EndOfStreamEntersClose := by
  intro s hready hread
  simp only [← fatal_eq]
  refine ⟨fun hst => ?_, fun body hst => ?_⟩
  · exact completes_of_moves hready (selected_hunt_of_read hst hread) (.huntEos hst hread)
  · exact completes_of_moves hready (selected_body_of_read hst hread) (.rxEos body hst hread)

/-- Settles O5: `EOT` is the first byte that `HUNT` looks for. -/
theorem eotInHuntGoesToEotAck : Obligations.EotInHuntGoesToEotAck := by
  intro s hready hst hread
  exact completes_of_moves hready (huntOp_eot s.params ▸ selected_hunt_of_read hst hread) (.huntEot hst hread)

/-- Settles O6: `SOH` is told from `EOT` by the admitted configuration. -/
theorem sohInHuntStartsAFrame : Obligations.SohInHuntStartsAFrame := by
  intro s hready hst hread
  exact completes_of_moves hready (huntOp_soh hready.1 ▸ selected_hunt_of_read hst hread) (.huntSoh hst hread)

/-- Settles O8: a body state selects by its code alone, whatever the byte. -/
theorem headerAndChecksumBytesAreStored : Obligations.HeaderAndChecksumBytesAreStored := by
  intro s b hready hread
  refine ⟨fun hst => ?_, fun hst => ?_, fun hst => ?_⟩
  · exact completes_of_moves hready (selected_body_of_read (body := .seq) hst hread) (.rxSeq b hst hread)
  · exact completes_of_moves hready (selected_body_of_read (body := .cmp) hst hread) (.rxCmp b hst hread)
  · exact completes_of_moves hready (selected_body_of_read (body := .chk) hst hread) (.rxChk b hst hread)

/-- Settles O9: an index up to 4 names a register, and the sum is that of `ACCUM`. -/
theorem payloadByteIsStoredAndSummed : Obligations.PayloadByteIsStoredAndSummed := by
  intro s b acc n hready hst hread hn hle hacc
  obtain ⟨regs, hw⟩ := payRegs_write_of (r := s.payR) (b := b) hle
  obtain ⟨hsel, hexec⟩ := rxPay_completes hready hst hread hn hacc hw
  exact ⟨hsel, regs, accum acc b, (payRegs_write hw).2, accum_toNat acc b, hexec⟩

/-! ## The nine reads of a frame (R78, R120, R130) -/

/-- A running state before a channel that gives `bytes` and then answers `rest`. -/
structure State.Gives (s : State) (bytes : List Byte) (rest : List (Option ReadAnswer)) : Prop where
  ready : s.Ready
  noReset : s.rst = []
  reads : s.chan.reads = bytes.map (fun b => some (.byte b)) ++ rest

/-- The state `s` with the reads of `bytes` in its history, before a channel that answers `rest`. -/
def State.afterReads (s : State) (bytes : List Byte) (rest : List (Option ReadAnswer)) : State :=
  { s with
    chan := { s.chan with reads := rest }
    history := s.history ++ bytes.map (fun b => .rd (.byte b)) }

section
variable {s t : State} {i : Instr} {b : Byte} {bytes : List Byte} {rest : List (Option ReadAnswer)}

theorem State.Gives.readAnswer (h : s.Gives (b :: bytes) rest) : s.chan.readAnswer = some (.byte b) := by
  simp [Channel.readAnswer, h.reads]

/-- A byte read is used up. -/
theorem State.Gives.afterRead (h : s.Gives (b :: bytes) rest) :
    s.chan.afterRead = { s.chan with reads := bytes.map (fun b => some (.byte b)) ++ rest } := by
  simp [Channel.afterRead, h.reads]

/-- A completed read is one step of the run, and leaves the coming bytes. -/
theorem State.Gives.run_succ (h : s.Gives (b :: bytes) rest) (ht : s.selected = some i ∧ exec i s = .next t)
    (hp : t.params = s.params := by rfl) (hf : t.fault = s.fault := by rfl) (hr : t.rst = s.rst := by rfl)
    (hc : t.chan = s.chan.afterRead := by rfl) :
    t.Gives bytes rest ∧ ∀ n, Host.Core.run core (n + 1) s = Host.Core.run core n t := by
  refine ⟨⟨⟨hp ▸ h.ready.1, hf.trans h.ready.2⟩, hr.trans h.noReset, by rw [hc, h.afterRead]⟩, fun n => ?_⟩
  have hstep : step s = .next t := by
    rw [step_of_no_reset h.ready.1 (by simp [State.rstNow, h.noReset]), tick_of_nil h.noReset,
      stepSelected_of h.ready.2 ht.1, ht.2]
  simp [Host.Core.run, show core.step s = .next t from hstep]

/-- The payload registers are what they hold in frame order. -/
theorem payRegs_ext {r r' : PayRegs} (h : r.toList = r'.toList) : r = r' := by
  cases r; cases r'; simpa [PayRegs.toList] using h

/-- R127: the rest of the payload, after the bytes `stored`, is stored and summed. -/
theorem run_payload {n : BitVec 3} {acc : Byte} (stored : List Byte) (h : s.Gives (b :: bytes) rest)
    (hst : s.st = .stBPay) (hn : s.pcnt = some n) (hacc : s.accR = some acc)
    (hstored : s.payR.toList.take n.toNat = stored.map some) (hlen : n.toNat + bytes.length = 4) :
    ∃ regs, regs.toList = (stored ++ b :: bytes).map some ∧
      Host.Core.run core (bytes.length + 1) s = .next { s.afterReads (b :: bytes) rest with
        payR := regs
        accR := some ((b :: bytes).foldl (· + ·) acc)
        pcnt := some 4
        st := .stBChk } := by
  induction bytes generalizing s b n acc stored with
  | nil =>
    rw [List.length_nil] at hlen
    obtain rfl : n = 4 := by bv_omega
    obtain ⟨r, hw⟩ := payRegs_write_of (r := s.payR) (n := 4) (b := b) (by decide)
    obtain ⟨_, hrun⟩ := h.run_succ (rxPay_completes h.ready hst h.readAnswer hn hacc hw)
    refine ⟨r, payRegs_write_take hw hstored, (hrun 0).trans ?_⟩
    simp [Host.Core.run, h.afterRead, State.afterReads, accum_eq_add]
  | cons c bytes ih =>
    rw [List.length_cons] at hlen
    have h4 : n ≠ 4 := by bv_omega
    have hsucc : (n + 1).toNat = n.toNat + 1 := by bv_omega
    obtain ⟨r, hw⟩ := payRegs_write_of (r := s.payR) (n := n) (b := b) (by omega)
    obtain ⟨hgives, hrun⟩ := h.run_succ (rxPay_completes h.ready hst h.readAnswer hn hacc hw)
    obtain ⟨regs, hregs, hrest⟩ := ih (n := n + 1) (stored ++ [b]) hgives (if_neg h4)
      (congrArg some (if_neg h4)) rfl (hsucc ▸ payRegs_write_take hw hstored) (by omega)
    refine ⟨regs, by simpa using hregs, (hrun _).trans (hrest.trans ?_)⟩
    simp [h.afterRead, State.afterReads, accum_eq_add]

/-- R123, R125, R126: `SOH` and the two header bytes. -/
theorem run_header {q c : Byte} (h : s.Gives (s.params.soh :: q :: c :: bytes) rest) (hst : s.st = .stHunt) (n : Nat) :
    Host.Core.run core (n + 3) s = Host.Core.run core n
      { s.afterReads [s.params.soh, q, c] (bytes.map (fun b => some (.byte b)) ++ rest) with
        seqR := some q
        cmpR := some c
        accR := some 0
        pcnt := some 0
        st := .stBPay } := by
  obtain ⟨h1, hrun1⟩ := h.run_succ (sohInHuntStartsAFrame s h.ready hst h.readAnswer)
  obtain ⟨h2, hrun2⟩ := h1.run_succ ((headerAndChecksumBytesAreStored _ q h1.ready h1.readAnswer).1 rfl)
  obtain ⟨_, hrun3⟩ := h2.run_succ ((headerAndChecksumBytesAreStored _ c h2.ready h2.readAnswer).2.1 rfl)
  rw [hrun1, hrun2, hrun3]
  simp [Channel.afterRead, h.reads, State.afterReads]

/-- R128: the checksum byte. -/
theorem run_checksum {k : Byte} (h : s.Gives [k] rest) (hst : s.st = .stBChk) :
    Host.Core.run core 1 s = .next { s.afterReads [k] rest with
      chkR := some k
      st := .stVerdict } := by
  obtain ⟨_, hrun⟩ := h.run_succ ((headerAndChecksumBytesAreStored s k h.ready h.readAnswer).2.2 hst)
  rw [hrun]
  simp [Host.Core.run, h.afterRead, State.afterReads]

/-- R127, R128: the payload and the checksum byte. -/
theorem run_body {b0 b1 b2 b3 b4 k : Byte} (h : s.Gives [b0, b1, b2, b3, b4, k] rest) (hst : s.st = .stBPay)
    (hn : s.pcnt = some 0) (hacc : s.accR = some 0) :
    Host.Core.run core 6 s = .next { s.afterReads [b0, b1, b2, b3, b4, k] rest with
      payR := ⟨some b0, some b1, some b2, some b3, some b4⟩
      chkR := some k
      accR := some (b0 + b1 + b2 + b3 + b4)
      pcnt := some 4
      st := .stVerdict } := by
  obtain ⟨regs, hregs, hpayload⟩ := run_payload (bytes := [b1, b2, b3, b4]) (rest := some (.byte k) :: rest) []
    ⟨h.ready, h.noReset, h.reads⟩ hst hn hacc rfl rfl
  obtain rfl : regs = ⟨some b0, some b1, some b2, some b3, some b4⟩ := payRegs_ext hregs
  refine .trans (run_add core 1 hpayload) (.trans (run_checksum (rest := rest) ⟨h.ready, h.noReset, rfl⟩ rfl) ?_)
  simp [State.afterReads]

end

/-- Settles O11: three reads up to the header, five of the payload and one of the checksum. -/
theorem nineReadsAssembleAFrame : Obligations.NineReadsAssembleAFrame := by
  intro s q c b0 b1 b2 b3 b4 k rest hready hrst hst hreads
  refine .trans (run_header (bytes := [b0, b1, b2, b3, b4, k]) ⟨hready, hrst, hreads⟩ hst 6)
    (.trans (run_body ⟨hready, hrst, rfl⟩ rfl rfl rfl) ?_)
  simp [State.afterReads]

end Sys2Proof.Machine

/-! Proofs of the statements of 42_receiver.md. -/

/-! ## The sequence tracker only warns (R107, R154) -/

namespace Sys2Proof.Machine

/-- The state `s` with another sequence tracker, and other records of the outcomes. -/
def State.retrack (s : State) (e : Byte) (last : OutcomeCode) (os : List OutcomeCode) (events : List Event) : State :=
  { s with expSeq := e, lastOutcome := last, outcomes := os, history := events }

/-- Two outcomes of a step that differ only as `SameButSequence` states do. -/
inductive Alike : Out → Out → Prop
  | next {s t : State} : SameButSequence s t → Alike (.next s) (.next t)
  | fault (f : Fault) : Alike (.fault f) (.fault f)
  | refused (r : Refusal) : Alike (.refused r) (.refused r)

/-- What is alike is of the same kind, with the same fault or refusal. -/
theorem Alike.outcomes {out out' : Out} (h : Alike out out') :
    (∀ s, out = .next s → ∃ t, out' = .next t ∧ SameButSequence s t) ∧
      (∀ f, out = .fault f → out' = .fault f) ∧ (∀ r, out = .refused r → out' = .refused r) := by
  cases h with
  | @next _ t h =>
    refine ⟨fun s hs => ⟨t, rfl, ?_⟩, by simp, by simp⟩
    cases hs
    exact h
  | fault f => exact ⟨by simp, fun _ hs => hs, by simp⟩
  | refused r => exact ⟨by simp, by simp, fun _ hs => hs⟩

section
variable {s t : State} (e : Byte) (last : OutcomeCode) (os : List OutcomeCode) (events : List Event)

theorem retrack_payR : (s.retrack e last os events).payR = s.payR := rfl
theorem retrack_accR : (s.retrack e last os events).accR = s.accR := rfl
theorem retrack_pcnt : (s.retrack e last os events).pcnt = s.pcnt := rfl
theorem retrack_respR : (s.retrack e last os events).respR = s.respR := rfl
theorem retrack_msg : (s.retrack e last os events).msg = s.msg := rfl

end

section
variable {s t : State}

theorem SameButSequence.exists_retrack (h : SameButSequence s t) :
    ∃ e last os events, t = s.retrack e last os events ∧ s.lastOutcome.blur = last.blur ∧
      s.outcomes.map OutcomeCode.blur = os.map OutcomeCode.blur ∧
      s.history.map Event.blur = events.map Event.blur :=
  ⟨t.expSeq, t.lastOutcome, t.outcomes, t.history, h⟩

/-- Records that are alike stay so where what is alike is appended to both. -/
theorem map_append_congr {α β : Type} {f : α → β} {xs ys zs ws : List α} (h : xs.map f = ys.map f)
    (h' : zs.map f = ws.map f := by rfl) : (xs ++ zs).map f = (ys ++ ws).map f := by
  rw [List.map_append, List.map_append, h, h']

/-- The blurred acceptance does not tell the two kinds apart. -/
theorem blur_acceptance (v : Bool) :
    (if v = true then OutcomeCode.accept else .acceptSeqWarn).blur = .accept := by
  cases v <;> rfl

/-! ### Each shared operation keeps the likeness -/

theorem SameButSequence.params_eq (h : SameButSequence s t) : t.params = s.params := by rw [h.1]
theorem SameButSequence.fault_eq (h : SameButSequence s t) : t.fault = s.fault := by rw [h.1]
theorem SameButSequence.chan_eq (h : SameButSequence s t) : t.chan = s.chan := by rw [h.1]
theorem SameButSequence.st_eq (h : SameButSequence s t) : t.st = s.st := by rw [h.1]

theorem SameButSequence.raise (h : SameButSequence s t) (m : FaultMark) :
    SameButSequence (s.raise m) (t.raise m) := by
  obtain ⟨e, last, os, events, rfl, hlast, hos, hevents⟩ := h.exists_retrack
  exact ⟨rfl, hlast, hos, hevents⟩

theorem SameButSequence.fatal (h : SameButSequence s t) : SameButSequence s.fatal t.fatal := by
  obtain ⟨e, last, os, events, rfl, hlast, hos, hevents⟩ := h.exists_retrack
  exact ⟨rfl, rfl, map_append_congr hos, map_append_congr (map_append_congr hevents)⟩

theorem SameButSequence.reject (h : SameButSequence s t) (o : OutcomeCode) :
    SameButSequence (s.reject o) (t.reject o) := by
  obtain ⟨e, last, os, events, rfl, hlast, hos, hevents⟩ := h.exists_retrack
  exact ⟨rfl, rfl, map_append_congr hos, map_append_congr hevents⟩

/-- R9: the refusal of a configuration looks at the parameters alone. -/
theorem configured_alike (h : SameButSequence s t) {k k' : Out} (hk : s.params.distinct → Alike k k') :
    Alike (configured s k) (configured t k') := by
  unfold configured
  rw [h.params_eq]
  split
  · exact hk ‹_›
  · exact .refused _

/-- R13, R37: the guard of an operation looks at the mark and the selection. -/
theorem operate_alike (h : SameButSequence s t) (hsel : t.selected = s.selected) (i : Instr) {k k' : Out}
    (hk : Alike k k') : Alike (operate i s k) (operate i t k') := by
  refine configured_alike h fun _ => ?_
  rw [h.fault_eq, hsel]
  cases s.fault with
  | some m => exact .fault _
  | none =>
    dsimp only
    split
    · exact hk
    · exact .refused _

theorem chanWrite_alike (h : SameButSequence s t) (b : Byte) {k : State → State}
    (hk : SameButSequence (k (s.writeDone b)) (k (t.writeDone b))) : Alike (chanWrite s b k) (chanWrite t b k) := by
  unfold chanWrite
  rw [h.chan_eq]
  split
  · exact .next hk
  · exact .fault _

theorem chanClose_alike (h : SameButSequence s t) {k : State → State}
    (hk : SameButSequence (k s.closeDone) (k t.closeDone)) : Alike (chanClose s k) (chanClose t k) := by
  unfold chanClose
  rw [h.chan_eq]
  split
  · exact .next hk
  · exact .fault _

/-- R146, R147: the two acceptances differ in the outcome alone. -/
theorem accept_alike (h : SameButSequence s t) {o o' : OutcomeCode} (ho : o.blur = o'.blur) :
    Alike (accept s o) (accept t o') := by
  obtain ⟨e, last, os, events, rfl, hlast, hos, hevents⟩ := h.exists_retrack
  unfold accept
  rw [retrack_payR, retrack_msg, h.params_eq]
  cases s.payR.read with
  | none => exact .next (h.raise _)
  | some p =>
    dsimp only
    cases msgAppendAll s.params.msgCapacity s.msg (etxfilt s.params.etx p) with
    | none => exact .next (h.raise _)
    | some m =>
      have hout : [Event.out o].map Event.blur = [Event.out o'].map Event.blur := by simp [Event.blur, ho]
      exact .next ⟨rfl, ho, map_append_congr hos (by simp [ho]), map_append_congr hevents hout⟩

/-- R127: `RX_PAY` stores and counts alike. -/
theorem rxPayStore_alike (h : SameButSequence s t) (b : Byte) (n : BitVec 3) (acc : Byte) :
    Alike (rxPayStore b n acc s) (rxPayStore b n acc t) := by
  obtain ⟨e, last, os, events, rfl, hlast, hos, hevents⟩ := h.exists_retrack
  unfold rxPayStore
  rw [retrack_payR]
  cases s.payR.write n b with
  | none => exact .refused _
  | some r =>
    dsimp only
    split <;> exact .next ⟨rfl, hlast, hos, map_append_congr hevents⟩

/-! ### The step -/

/-- R190: the reset action restores the sequence tracker and the records. -/
theorem reset_alike (h : SameButSequence s t) : Alike (exec .reset s) (exec .reset t) := by
  obtain ⟨e, last, os, events, rfl, -⟩ := h.exists_retrack
  exact configured_alike h fun _ => .next ⟨rfl, rfl, rfl, rfl⟩

/-- Every operation does alike in two states that select the same. -/
theorem exec_alike (h : SameButSequence s t) (hsel : t.selected = s.selected) (i : Instr) :
    Alike (exec i s) (exec i t) := by
  have guard := operate_alike h hsel
  obtain ⟨e, last, os, events, rfl, hlast, hos, hevents⟩ := h.exists_retrack
  cases i with
  | openOk => exact guard _ (.next ⟨rfl, hlast, hos, map_append_congr hevents⟩)
  | openFail =>
    exact guard _ (.next ⟨rfl, rfl, map_append_congr hos, map_append_congr (map_append_congr hevents)⟩)
  | hsNak => exact guard _ (chanWrite_alike h _ ⟨rfl, hlast, hos, map_append_congr hevents⟩)
  | huntEos | rxEos => exact guard _ (.next h.fatal)
  | huntEot | huntSoh | huntNoise | rxSeq | rxCmp | rxChk =>
    exact guard _ (.next ⟨rfl, hlast, hos, map_append_congr hevents⟩)
  | vdRejHdr | vdRejCk => exact guard _ (.next (h.reject _))
  | vdAcc | vdAccWarn => exact guard _ (accept_alike h rfl)
  | rxPay b =>
    refine guard _ ?_
    rw [retrack_pcnt, retrack_accR]
    cases s.pcnt with
    | none => exact .next (h.raise _)
    | some n =>
      cases s.accR with
      | none => exact .next (h.raise _)
      | some acc => exact rxPayStore_alike h b n acc
  | txResp =>
    refine guard _ ?_
    rw [retrack_respR]
    cases s.respR with
    | none => exact .next (h.raise _)
    | some r => exact chanWrite_alike h _ ⟨rfl, hlast, hos, map_append_congr hevents⟩
  | txEotAck =>
    exact guard _ (chanWrite_alike h _
      ⟨rfl, rfl, map_append_congr hos, map_append_congr (map_append_congr hevents)⟩)
  | chClose => exact guard _ (chanClose_alike h ⟨rfl, hlast, hos, map_append_congr hevents⟩)
  | doneHalt => exact guard _ (.next h)
  | badState => exact guard _ (.next (h.raise _))
  | cksum | hdrchk | ckchk | accum | etxfilt =>
    exact configured_alike h fun _ => .next ⟨rfl, hlast, hos, hevents⟩
  | reset => exact reset_alike h

/-- What the verdict `f` does (R144 to R147). -/
def judge (f : Flags) (s : State) : Out :=
  if f.hdrOk then
    if f.ckOk then accept s (if f.seqEq then .accept else .acceptSeqWarn) else .next (s.reject .rejChecksum)
  else .next (s.reject .rejHeader)

/-- R85 rows 8 to 11: the step of `VERDICT` is what its flags say. -/
theorem stepSelected_verdict {f : Flags} (hready : s.Ready) (hst : s.st = .stVerdict) (hf : s.flags = some f) :
    stepSelected s = judge f s := by
  have hsel : s.selected = some (verdictOp f) := by rw [selected_verdict hst, hf]; rfl
  have run {k : Out} := stepSelected_of_operate (k := k) hready.1 hready.2 hsel
  obtain ⟨hdrOk, ckOk, seqEq⟩ := f
  cases hdrOk with
  | false => exact run rfl
  | true =>
    cases ckOk with
    | false => exact run rfl
    | true => cases seqEq <;> exact run rfl

/-- R38: without its flags, `VERDICT` raises the mark. -/
theorem stepSelected_of_no_flags (hfault : s.fault = none) (hst : s.st = .stVerdict) (hf : s.flags = none) :
    stepSelected s = .next (s.raise .unwrittenRead) := by
  simp only [stepSelected, hfault, State.selector, hst, hf]

/-- R36: of the three flags only `seq_eq` looks at the sequence tracker. -/
theorem SameButSequence.flags (h : SameButSequence s t) :
    (s.flags = none ∧ t.flags = none) ∨
      ∃ f v, s.flags = some f ∧ t.flags = some { f with seqEq := v } := by
  obtain ⟨e, last, os, events, rfl, -⟩ := h.exists_retrack
  cases hf : s.flags with
  | none =>
    rw [flags_eq_none_iff] at hf
    exact .inl ⟨rfl, flags_eq_none_iff.mpr hf⟩
  | some f =>
    unfold State.flags at hf
    split at hf
    next q c acc k hq hc hacc hk =>
      cases hf
      exact .inr ⟨_, q == e, rfl, by simp [State.flags, State.retrack, hq, hc, hacc, hk, flagsOf]⟩
    next => cases hf

/-- R154: the flag `seq_eq` only chooses the kind of acceptance. -/
theorem judge_alike (h : SameButSequence s t) (f : Flags) (v : Bool) :
    Alike (judge f s) (judge { f with seqEq := v } t) := by
  unfold judge
  dsimp only
  split
  · split
    · exact accept_alike h (by rw [blur_acceptance, blur_acceptance])
    · exact .next (h.reject _)
  · exact .next (h.reject _)

/-- R84: outside `VERDICT` the selector word does not look at the sequence tracker. -/
theorem SameButSequence.selector_eq (h : SameButSequence s t) (hst : s.st ≠ .stVerdict) :
    t.selector = s.selector := by
  obtain ⟨e, last, os, events, rfl, -⟩ := h.exists_retrack
  unfold State.selector
  cases hcode : s.st with
  | stVerdict => exact absurd hcode hst
  | _ => simp [State.retrack, hcode]

theorem SameButSequence.selected_eq (h : SameButSequence s t) (hst : s.st ≠ .stVerdict) :
    t.selected = s.selected := by
  unfold State.selected
  rw [h.selector_eq hst, h.params_eq]

/-- R37, R84: in `VERDICT` the flags judge alike, and elsewhere the same operation is selected. -/
theorem stepSelected_alike (h : SameButSequence s t) (hp : s.params.distinct) :
    Alike (stepSelected s) (stepSelected t) := by
  have hcode := h.st_eq
  have hfault := h.fault_eq
  cases hf : s.fault with
  | some m =>
    rw [stepSelected_of_marked hf, stepSelected_of_marked (hfault.trans hf)]
    exact .fault _
  | none =>
    by_cases hst : s.st = .stVerdict
    · obtain ⟨hs, ht⟩ | ⟨f, v, hs, ht⟩ := h.flags
      · rw [stepSelected_of_no_flags hf hst hs, stepSelected_of_no_flags (hfault.trans hf) (hcode.trans hst) ht]
        exact .next (h.raise _)
      · rw [stepSelected_verdict ⟨hp, hf⟩ hst hs,
          stepSelected_verdict ⟨h.params_eq ▸ hp, hfault.trans hf⟩ (hcode.trans hst) ht]
        exact judge_alike h f v
    · unfold stepSelected
      rw [hfault, hf, h.selector_eq hst, h.params_eq]
      dsimp only
      cases s.selector with
      | silent => exact .fault _
      | unwritten => exact .next (h.raise _)
      | word w =>
        dsimp only
        cases decode s.params w with
        | none => exact .refused _
        | some i => exact exec_alike h (h.selected_eq hst) i

theorem step_alike (h : SameButSequence s t) : Alike (step s) (step t) := by
  have htick : SameButSequence s.tick t.tick := by
    obtain ⟨e, last, os, events, rfl, hlast, hos, hevents⟩ := h.exists_retrack
    exact ⟨rfl, hlast, hos, hevents⟩
  have hrst : t.rstNow = s.rstNow := by rw [h.1]; rfl
  refine configured_alike h fun hp => ?_
  rw [hrst]
  split
  · exact reset_alike htick
  · exact stepSelected_alike htick hp

end

/-- Settles O50: the two steps are alike, and outcomes that are alike are of the same kind. -/
theorem sequenceNumberOnlyWarns : Obligations.SequenceNumberOnlyWarns :=
  fun _ _ h => (step_alike h).outcomes

end Sys2Proof.Machine

/-! ## The history goes along one of the listed shapes (R140, R155) -/

namespace Sys2Proof.Machine

/-! ### How the shapes grow -/

section
variable {p : Params} {h : List Event} {k : Nat}

/-- R143: the handshake is the empty block loop. -/
theorem inLoop_handshake (p : Params) : InLoop p [.opened true, .wr p.nak] :=
  ⟨[], [], .none, rfl, rfl⟩

/-- R124: noise extends the loop. -/
theorem InLoop.noise {b : Byte} (hl : InLoop p h) (heot : b ≠ p.eot) (hsoh : b ≠ p.soh) :
    InLoop p (h ++ [.rd (.byte b)]) := by
  obtain ⟨blocks, noise, hblocks, hnoise, rfl⟩ := hl
  exact ⟨blocks, noise ++ [.rd (.byte b)], hblocks, by simp [hnoise, isNoise, heot, hsoh], by simp⟩

/-- R123: `SOH` starts a frame. -/
theorem InLoop.soh (hl : InLoop p h) : InFrame p (h ++ [.rd (.byte p.soh)]) 0 :=
  ⟨h, [], hl, rfl, rfl⟩

/-- R125 to R128: a byte of the body extends the frame. -/
theorem InFrame.read (hf : InFrame p h k) (b : Byte) : InFrame p (h ++ [.rd (.byte b)]) (k + 1) := by
  obtain ⟨l, body, hl, hlen, rfl⟩ := hf
  exact ⟨l, body ++ [b], hl, by simp [hlen], by simp [frameReads]⟩

/-- R148: the verdict on a whole frame and its response end a block. -/
theorem InFrame.respond {o : OutcomeCode} {r : Byte} (hf : InFrame p h 8) (hv : (o, r) ∈ verdictPairs p) :
    InLoop p (h ++ [.out o] ++ [.wr r]) := by
  obtain ⟨l, body, ⟨blocks, noise, hblocks, hnoise, rfl⟩, hlen, rfl⟩ := hf
  exact ⟨_, [], hblocks.more hnoise hlen hv, rfl, by simp⟩

/-- R121: a failure of the channel between frames. -/
theorem InLoop.fail (hl : InLoop p h) : SessionHistory p (h ++ [.rd .eos] ++ [.out .ioFault] ++ [.closed]) := by
  simpa using SessionHistory.ioFaultInHunt hl

/-- R129: a failure of the channel inside a frame. -/
theorem InFrame.fail (hf : InFrame p h k) (hk : k ≤ 7) :
    SessionHistory p (h ++ [.rd .eos] ++ [.out .ioFault] ++ [.closed]) := by
  obtain ⟨l, body, hl, rfl, rfl⟩ := hf
  simpa using SessionHistory.ioFaultInFrame hl hk

/-- R149: the end of transmission. -/
theorem InLoop.finish (hl : InLoop p h) :
    SessionHistory p (h ++ [.rd (.byte p.eot)] ++ [.wr p.ack] ++ [.out .eot] ++ [.closed]) := by
  simpa using SessionHistory.endOfTransmission hl

end

/-! ### Every step keeps the shape -/

section
variable {s t : State}

/-- What the history of a state in `c` has to fit. -/
theorem historyFits_of_st {c : StCode} (hst : s.st = c) :
    s.HistoryFits ↔ ({ s with st := c } : State).HistoryFits := by
  subst hst; rfl

theorem historyFits_hunt (hst : s.st = .stHunt) : s.HistoryFits ↔ InLoop s.params s.history :=
  historyFits_of_st hst

theorem historyFits_bPay (hst : s.st = .stBPay) :
    s.HistoryFits ↔ ∃ n, s.pcnt = some n ∧ InFrame s.params s.history (2 + n.toNat) :=
  historyFits_of_st hst

/-- R130: in a body state at most seven bytes of the body are read. -/
theorem inFrame_of_body {body : BodySt} (hst : s.st = body.st) (hi : s.Inv) (h : s.HistoryFits) :
    ∃ k, k ≤ 7 ∧ InFrame s.params s.history k := by
  rw [historyFits_of_st hst] at h
  cases body with
  | seq => exact ⟨0, by decide, h⟩
  | cmp => exact ⟨1, by decide, h⟩
  | pay =>
    obtain ⟨n, hn, hframe⟩ := h
    have hle := hi.counter n hn
    exact ⟨_, by omega, hframe⟩
  | chk => exact ⟨7, by decide, h⟩

/-- Each event of a move is the next one of a shape. -/
theorem moves_historyFits (hm : Moves s t) (hi : s.Inv) (h : s.HistoryFits) : t.HistoryFits := by
  have fits {c : StCode} (hst : s.st = c) := (historyFits_of_st hst).mp h
  cases hm with
  | openOk hst => exact congrArg (· ++ [Event.opened true]) (fits hst)
  | openFail hst =>
    have hnil : s.history = [] := fits hst
    simpa [State.HistoryFits, hnil] using SessionHistory.openFailure
  | hsNak hst =>
    have hopen : s.history = [.opened true] := fits hst
    simpa [State.HistoryFits, hopen] using inLoop_handshake s.params
  | huntEos hst => exact InLoop.fail (fits hst)
  | huntEot hst => exact ⟨s.history, fits hst, rfl⟩
  | huntSoh hst => exact InLoop.soh (fits hst)
  | huntNoise b hst _ heot hsoh => exact (historyFits_hunt (by exact hst)).mpr (InLoop.noise (fits hst) heot hsoh)
  | rejHdr f hst => exact ⟨s.history, .rejHeader, s.params.nak, fits hst, by simp [verdictPairs], rfl, rfl⟩
  | rejCk f hst => exact ⟨s.history, .rejChecksum, s.params.nak, fits hst, by simp [verdictPairs], rfl, rfl⟩
  | acc f p m hst =>
    exact ⟨s.history, _, s.params.ack, fits hst, by cases f.seqEq <;> simp [verdictPairs], rfl, rfl⟩
  | rxEos body hst =>
    obtain ⟨k, hk, hframe⟩ := inFrame_of_body hst hi h
    exact hframe.fail hk
  | rxSeq b hst => exact InFrame.read (fits hst) b
  | rxCmp b hst => exact ⟨0, rfl, InFrame.read (fits hst) b⟩
  | rxPayMore b n a r hst _ hn _ hw =>
    obtain ⟨n', hn', hframe⟩ := fits hst
    cases hn.symm.trans hn'
    have hle := (payRegs_write hw).1
    have hsucc : 2 + (n + 1).toNat = 2 + n.toNat + 1 := by bv_omega
    exact (historyFits_bPay (by exact hst)).mpr ⟨n + 1, rfl, hsucc ▸ InFrame.read hframe b⟩
  | rxPayLast b a r hst _ hn =>
    obtain ⟨n, hn', hframe⟩ := fits hst
    cases hn.symm.trans hn'
    exact InFrame.read hframe b
  | rxChk b hst => exact InFrame.read (fits hst) b
  | txResp r hst hr =>
    obtain ⟨l, o, r', hframe, hv, hr', hhist⟩ := fits hst
    cases hr.symm.trans hr'
    have hloop := hframe.respond hv
    rw [← hhist] at hloop
    exact hloop
  | txEotAck hst =>
    obtain ⟨l, hloop, hhist⟩ := fits hst
    have hend := hloop.finish
    rw [← hhist] at hend
    exact hend
  | chClose hst => exact fits hst
  | accOverflow | accUnwritten | verdictUnwritten | rxPayUnwritten | txRespUnwritten | doneHalt | badState => exact h

/-- R190: at a start nothing has happened. -/
theorem start_historyFits (p : Params) (c : Channel) (levels : List Bool) : (State.start p c levels).HistoryFits := rfl

end

/-- Settles O51: a step is the reset action, which leaves a start of the machine, or one of `Moves`. -/
theorem stepKeepsTheHistoryShape : Obligations.StepKeepsTheHistoryShape := by
  intro s t hi h hstep
  obtain ⟨_, ⟨_, rfl⟩ | ⟨_, _, hmove⟩⟩ := step_moves hstep
  · exact start_historyFits s.params s.chan s.rst.tail
  · exact moves_historyFits hmove (tick_inv hi) h

/-- The parameters are nobody's to change (R8, R44). -/
theorem step_params {s t : State} (h : step s = .next t) : t.params = s.params := by
  obtain ⟨_, ⟨_, rfl⟩ | ⟨_, _, hmove⟩⟩ := step_moves h
  · rfl
  · obtain ⟨_, _, happ⟩ := moves_recordsGrow hmove
    exact happ.params

theorem reaches_params {s t : State} (h : Reaches s t) : t.params = s.params := by
  induction h with
  | refl => rfl
  | step _ hstep ih => exact (step_params hstep).trans ih

theorem reaches_historyFits {s t : State} (h : Reaches s t) (hi : s.Inv) (hfits : s.HistoryFits) : t.HistoryFits := by
  induction h with
  | refl => exact hfits
  | step hreach hstep ih => exact stepKeepsTheHistoryShape _ _ (reaches_inv hreach hi) ih hstep

/-- Settles O52: in `DONE`, the shape that every reached history fits is that of a finished session. -/
theorem finishedHistoriesHaveTheListedShapes : Obligations.FinishedHistoriesHaveTheListedShapes := by
  intro p c levels s hp h hst
  have hfits := reaches_historyFits h (start_inv hp c levels) (start_historyFits p c levels)
  have hparams : s.params = p := reaches_params h
  exact hparams ▸ (historyFits_of_st hst).mp hfits

/-- R129: the fatal-error entry leaves every body state. -/
theorem body_edge_close (body : BodySt) : (body.st, .stClose) ∈ fsmEdges := by
  cases body <;> decide

/-- R140: a move that raises no mark goes along an edge. -/
theorem moves_edge {s t : State} (h : Moves s t) (hf : t.fault = none) : (s.st, t.st) ∈ fsmEdges := by
  cases h with
  | accOverflow | accUnwritten | verdictUnwritten | rxPayUnwritten | txRespUnwritten | badState => simp at hf
  | rxEos body hst => exact hst ▸ body_edge_close body
  | huntNoise b hst | rxPayMore b n a r hst | doneHalt hst => simp [fsmEdges, hst]
  | _ => simp [fsmEdges, *]

/-- Settles O46: a step that is not a reset is one of `Moves`. -/
theorem stepFollowsTheTransitionGraph : Obligations.StepFollowsTheTransitionGraph := by
  intro s t hr h hf
  obtain ⟨_, ⟨hreset, _⟩ | ⟨_, _, hmove⟩⟩ := step_moves h
  · simp [hr] at hreset
  · exact moves_edge (s := s.tick) hmove hf

end Sys2Proof.Machine

/-! ## One step of each receiver operation (R141 to R152) -/

namespace Sys2Proof.Machine

section
variable {s : State} {q c acc k : Byte}

/-- R36, R85: in `VERDICT` with the four registers written, their flags select. -/
theorem selected_verdict_of_registers (hst : s.st = .stVerdict) (hq : s.seqR = some q) (hc : s.cmpR = some c)
    (hacc : s.accR = some acc) (hk : s.chkR = some k) :
    s.flags = some (flagsOf q c acc k s.expSeq) ∧ s.selected = some (verdictOp (flagsOf q c acc k s.expSeq)) := by
  have hflags : s.flags = some (flagsOf q c acc k s.expSeq) := by simp [State.flags, hq, hc, hacc, hk]
  exact ⟨hflags, by rw [selected_verdict hst, hflags]; rfl⟩

end

/-- Settles O1: an open answered true selects `OPEN_OK`. -/
theorem openOkEntersHandshake : Obligations.OpenOkEntersHandshake := by
  intro s hready hst ha
  exact completes_of_moves hready (by rw [selected_open hst, ha]; rfl) (.openOk hst ha)

/-- Settles O3: `HANDSHAKE` selects by its code alone. -/
theorem handshakeWritesNak : Obligations.HandshakeWritesNak := by
  intro s hready hst ha
  exact completes_of_moves hready (selected_handshake hst) (.hsNak hst ha)

/-- Settles O12: `hdr_ok` alone decides for the rejection. -/
theorem badHeaderIsRejectedFirst : Obligations.BadHeaderIsRejectedFirst := by
  intro s q c acc k hready hst hq hc hacc hk hne
  obtain ⟨hflags, hsel⟩ := selected_verdict_of_registers hst hq hc hacc hk
  have hhdr : hdrchk q c = false := Bool.eq_false_iff.mpr ((hdrchk_iff q c).not.mpr hne)
  exact completes_of_moves hready (by simpa [verdictOp, flagsOf, hhdr] using hsel) (.rejHdr _ hst hflags hhdr)

/-- Settles O13: with `hdr_ok`, `ck_ok` decides for the rejection. -/
theorem badChecksumIsRejectedNext : Obligations.BadChecksumIsRejectedNext := by
  intro s q c acc k hready hst hq hc hacc hk heq hne
  obtain ⟨hflags, hsel⟩ := selected_verdict_of_registers hst hq hc hacc hk
  have hhdr : hdrchk q c = true := (hdrchk_iff q c).mpr heq
  have hck : (acc == k) = false := beq_false_of_ne hne
  exact completes_of_moves hready (by simpa [verdictOp, flagsOf, hhdr, hck] using hsel)
    (.rejCk _ hst hflags hhdr hck)

/-- Settles O16: the increment is that of `seqNext`. -/
theorem responseAdvancesTheSequence : Obligations.ResponseAdvancesTheSequence := by
  intro s r hready hst hr ha
  obtain ⟨hsel, hexec⟩ := completes_of_moves hready (selected_resp hst) (.txResp r hst hr ha)
  refine ⟨hsel, _, ?_, hexec⟩
  split
  · exact seqNext_toNat s.expSeq
  · rfl

/-- Settles O17: the write, and then the outcome. -/
theorem endOfTransmissionIsAcknowledged : Obligations.EndOfTransmissionIsAcknowledged := by
  intro s hready hst ha
  have hmove := completes_of_moves hready (selected_eotAck hst) (.txEotAck hst ha)
  simpa [State.emit, State.writeDone] using hmove

/-- Settles O18: `CLOSE` selects by its code alone. -/
theorem closeTerminatesTheSession : Obligations.CloseTerminatesTheSession := by
  intro s hready hst ha
  exact completes_of_moves hready (selected_close hst) (.chClose hst ha)

/-- Settles O19: the move of `DONE` is to the same state. -/
theorem doneStaysDone : Obligations.DoneStaysDone := by
  intro s hready hst
  exact completes_of_moves hready (selected_done hst) (.doneHalt hst)

/-- Settles O20: the mark of a ready state is the first one. -/
theorem reservedStateRaisesItsMark : Obligations.ReservedStateRaisesItsMark := by
  intro s low hready hst
  exact completes_of_moves hready (selected_reserved hst) (raise_of_unmarked hready.2 .badState ▸ .badState low hst)

end Sys2Proof.Machine

/-! Proofs of the statements of 60_exceptions.md. -/

/-! ## The failed open, the noise and the accepted frame (R172, R174, R175) -/

namespace Sys2Proof.Machine

section
variable {s : State}

/-- R82: a byte that is neither `EOT` nor `SOH` is noise. -/
theorem huntOp_noise {p : Params} {b : Byte} (heot : b ≠ p.eot) (hsoh : b ≠ p.soh) :
    huntOp p (.byte b) = .huntNoise b := by
  simp [huntOp, heot, hsoh]

/-- R64: an acceptance whose bytes fit appends them and leaves `ACK` and the increment pending. -/
theorem accept_of_fits {p : Payload} (hpay : s.payR.read = some p)
    (hfits : ∀ cap, s.params.msgCapacity = some cap → s.msg.length + (etxfilt s.params.etx p).length ≤ cap)
    (o : OutcomeCode) :
    accept s o = .next { s.emit o with
      msg := s.msg ++ etxfilt s.params.etx p, respR := some s.params.ack, incPend := true, st := .stResp } := by
  simp only [accept, hpay, msgAppendAll_of_fits hfits]

end

/-- Settles O2: the open's event, and then the outcome. -/
theorem openFailureEndsTheSession : Obligations.OpenFailureEndsTheSession := by
  intro s hready hst ha
  have hsel : s.selected = some .openFail := by rw [selected_open hst, ha]; rfl
  have hmove := completes_of_moves hready hsel (.openFail hst ha)
  simpa [State.emit, State.openDone] using hmove

/-- Settles O7: noise is what is left of the bytes that `HUNT` looks for. -/
theorem noiseInHuntIsDiscarded : Obligations.NoiseInHuntIsDiscarded := by
  intro s b hready hst hread heot hsoh
  exact completes_of_moves hready (huntOp_noise heot hsoh ▸ selected_hunt_of_read hst hread)
    (.huntNoise b hst hread heot hsoh)

/-- Settles O14: the sequence number selects the operation, and either one is the acceptance, which differs in its
outcome alone. -/
theorem goodFrameIsAccepted : Obligations.GoodFrameIsAccepted := by
  intro s q c acc b0 b1 b2 b3 b4 ⟨hp, hf⟩ hst hq hc hacc hchk hhdr hpay text hfits accepted
  have hread : s.payR.read = some ⟨b0, b1, b2, b3, b4⟩ := by rw [hpay]; rfl
  have hsel := selected_of_good_frame hst hq hc hacc hchk hhdr
  have haccept (o : OutcomeCode) : accept s o = .next (accepted o) := accept_of_fits hread hfits o
  refine ⟨fun heq => ?_, fun hne => ?_⟩
  · rw [if_pos heq] at hsel
    exact ⟨hsel, (operate_of hp hf hsel _).trans (haccept .accept)⟩
  · rw [if_neg hne] at hsel
    exact ⟨hsel, (operate_of hp hf hsel _).trans (haccept .acceptSeqWarn)⟩

end Sys2Proof.Machine

/-! Proofs of the statements of 70_reset_and_hazards.md. -/

/-! ## The close of the channel (R54, R198) -/

namespace Sys2Proof.Machine

/-- The channel is closed once, and last, in `DONE` after an open (R198), and not at all anywhere else: not before `DONE`,
and not after an open failure (R54). -/
structure State.ClosesOnce (s : State) : Prop where
  closed : s.st = .stDone → s.cause ≠ .openFail → s.history.count .closed = 1 ∧ s.history.getLast? = some .closed
  unclosed : (s.st = .stDone → s.cause = .openFail) → s.history.count .closed = 0

section
variable {s t : State}

/-- Outside `DONE` what is to be said is that there was no close. -/
theorem closesOnce_iff_of_not_done (hst : s.st ≠ .stDone) : s.ClosesOnce ↔ s.history.count .closed = 0 :=
  ⟨fun h => h.unclosed fun hdone => absurd hdone hst, fun h => ⟨fun hdone => absurd hdone hst, fun _ => h⟩⟩

theorem start_closesOnce (p : Params) (c : Channel) (levels : List Bool) : (State.start p c levels).ClosesOnce :=
  (closesOnce_iff_of_not_done (by simp [State.start, State.reset])).mpr rfl

/-- R34: an open failure does not go through `CLOSE`. -/
theorem cause_ne_openFail_of_close (hst : s.st = .stClose) (hi : s.Inv) : s.cause ≠ .openFail := by
  have hcause := hi.cause
  rw [hst] at hcause
  intro hfail
  simp [hfail, causeFits] at hcause

/-- R54, R142, R150: the failed open and the close are the two moves into `DONE`, and of all moves only the close brings
its event. -/
theorem moves_closesOnce (h : Moves s t) (hi : s.Inv) (hc : s.ClosesOnce) : t.ClosesOnce := by
  have before (hst : s.st ≠ .stDone) : s.history.count .closed = 0 := (closesOnce_iff_of_not_done hst).mp hc
  cases h with
  | openFail hst => exact ⟨fun _ hne => absurd rfl hne, fun _ => by simp [before, hst]⟩
  | chClose hst =>
    have hcause : s.cause ≠ .openFail := cause_ne_openFail_of_close hst hi
    exact ⟨fun _ _ => by simp [before, hst], fun hfail => absurd (hfail rfl) hcause⟩
  | doneHalt => exact hc
  | rxEos body hst =>
    have hne : s.st ≠ .stDone := by cases body <;> simp [hst, BodySt.st]
    exact (closesOnce_iff_of_not_done (by simp)).mpr (by simp [before hne])
  | _ => exact (closesOnce_iff_of_not_done (by simp [*])).mpr (by simp [*])

theorem reaches_closesOnce (h : Reaches s t) (hi : s.Inv) (hc : s.ClosesOnce) : t.ClosesOnce := by
  induction h with
  | refl => exact hc
  | @step u _ hreach hstep ih =>
    obtain ⟨_, ⟨_, rfl⟩ | ⟨_, _, hmove⟩⟩ := step_moves hstep
    · exact start_closesOnce u.params u.chan u.rst.tail
    · exact moves_closesOnce hmove (tick_inv (reaches_inv hreach hi)) { ih with }

end

/-- Settles O53: at a start nothing is closed, and every step keeps `ClosesOnce`. -/
theorem channelIsClosedExactlyOnce : Obligations.ChannelIsClosedExactlyOnce := by
  intro p c levels s hp h
  have hc := reaches_closesOnce h (start_inv hp c levels) (start_closesOnce p c levels)
  exact ⟨hc.closed, fun _ hfail => hc.unclosed fun _ => hfail, fun hst => (closesOnce_iff_of_not_done hst).mp hc⟩

/-! ## The reset and the status port (R41, R190, R199) -/

/-- R190: the reset action completes in every admitted configuration. -/
theorem exec_reset {s : State} (hp : s.params.distinct) : exec .reset s = .next s.resetAll := configured_of hp _

/-- R84: `OPEN` selects an open, whatever the channel answers. -/
theorem selected_open_cases {s : State} {i : Instr} (hst : s.st = .stOpen) (hi : s.selected = some i) :
    i = .openOk ∨ i = .openFail := by
  rw [selected_open hst] at hi
  obtain ⟨ok, _, rfl⟩ := Option.map_eq_some_iff.mp hi
  cases ok with
  | true => exact .inl rfl
  | false => exact .inr rfl

/-- Settles O21: the elements are read off the state that the reset action leaves, which is in `OPEN`. -/
theorem resetRestoresEveryElement : Obligations.ResetRestoresEveryElement := by
  intro s hp
  have hopen (i : Instr) : s.resetAll.selected = some i → i = .openOk ∨ i = .openFail := selected_open_cases rfl
  exact ⟨s.resetAll, exec_reset hp, by simpa [PayRegs.toList, PayRegs.unwritten] using hopen⟩

/-- R199: before the end a result is refused. -/
theorem whenTerminated_of_running {s : State} (h : s.terminated = false) (v : Except Refusal StatusValue) :
    whenTerminated s v = .error .resultNotReady := by
  simp [whenTerminated, h]

/-- R199: at the end a result is read. -/
theorem whenTerminated_of_terminated {s : State} (h : s.terminated = true) (v : Except Refusal StatusValue) :
    whenTerminated s v = v := if_pos h

theorem msgByteAt_of_get {m : List Byte} {i : Nat} {b : Byte} (h : m[i]? = some b) : msgByteAt m i = .ok (.byte b) := by
  simp [msgByteAt, h]

/-- Settles O41: the four results are read through `whenTerminated`, the other three items are not. -/
theorem resultsAreReadOnlyAtTheEnd : Obligations.ResultsAreReadOnlyAtTheEnd := by
  intro s
  refine ⟨fun hrun => ?_, fun hend => ?_, rfl, rfl, rfl⟩
  · have refused := whenTerminated_of_running hrun
    exact ⟨refused _, refused _, refused _, fun _ => refused _⟩
  · have given := whenTerminated_of_terminated hend
    exact ⟨given _, given _, given _, fun _ _ hb => (given _).trans (msgByteAt_of_get hb)⟩

/-- Settles O42: a start meets the invariant, field by field. -/
theorem startMeetsTheInvariant : Obligations.StartMeetsTheInvariant :=
  fun _ c levels hp => start_inv hp c levels

end Sys2Proof.Machine
